-- ==== Sys2Proof/Word.lean ====
section
/-! DEFINITION. The words, bytes and colours of the engine (00_scope.md R8, R9). -/

namespace Sys2Proof

/-- A u32: a register of the window, an operand word, a command word (R8). -/
abbrev Word := BitVec 32

/-- A channel byte on the wire, or one byte of a register seen through the bus (R45, R129). -/
abbrev Byte := BitVec 8

/-- A colour: three channel values, exact rationals (R9).  That they lie in [0, 1] is the invariant
`Colour.InRange` (R21), kept by every step. -/
structure Colour where
  r : Rat
  g : Rat
  b : Rat
deriving DecidableEq, Repr

/-- The colour invariant of R21: every channel lies in [0, 1]. -/
abbrev Colour.InRange (c : Colour) : Prop :=
  (0 ≤ c.r ∧ c.r ≤ 1) ∧ (0 ≤ c.g ∧ c.g ≤ 1) ∧ (0 ≤ c.b ∧ c.b ≤ 1)

/-- Black, the colour of every register and pixel at the start (R12, R16, R20). -/
def Colour.black : Colour := ⟨0, 0, 0⟩

end Sys2Proof
end

