-- ==== Sys2Proof/Syntax.lean ====
section
/-! DEFINITION. The commands: one constructor per row of spec/opcode_table.json (30_encoding.md R63).  A
register field keeps the four bits it has in the word and the palette immediate its twelve (R59);
`Instr.wellFormed` says which of their bits must be zero. -/

namespace Sys2Proof

/-- A command with the fields its row uses (R59, R63). -/
inductive Instr where
  /-- RGB cD (R79) -/
  | rgb (cd : BitVec 4)
  /-- PAL cD, k (R81) -/
  | pal (cd : BitVec 4) (imm : BitVec 12)
  /-- MIX cD, cA, cB (R84) -/
  | mix (cd ca cb : BitVec 4)
  /-- MIXR cD, cA, cB (R87) -/
  | mixr (cd ca cb : BitVec 4)
  /-- OPAC cD, cA (R91) -/
  | opac (cd ca : BitVec 4)
  /-- CREAD cA (R98) -/
  | cread (ca : BitVec 4)
  /-- NEW (R101) -/
  | new
  /-- EACH (R104) -/
  | each
  /-- GPUT cA (R106) -/
  | gput (ca : BitVec 4)
  /-- PGET cD (R112) -/
  | pget (cd : BitVec 4)
  /-- REST (R115) -/
  | rest
  /-- CLRERR (R113) -/
  | clrerr
deriving DecidableEq, Repr

end Sys2Proof
end

