-- ==== Sys2Proof/WellFormed.lean ====
section
/-! DEFINITION. Which commands spell a word of the opcode table: the top bit of a used register field is
zero (30_encoding.md R60) and bits 11:3 of the palette immediate are zero (R59, R61). -/

namespace Sys2Proof

/-- The top bit of a used register field must be 0 (R60). -/
def regFieldOk (f : BitVec 4) : Bool := !f.msb

/-- Bits 11:3 of PAL's immediate must be 0 (R59). -/
def palImmOk (imm : BitVec 12) : Bool := imm.extractLsb' 3 9 == 0#9

/-- Every field of the command meets its must-be-zero check (R60, R66). -/
def Instr.wellFormed : Instr → Bool
  | .rgb cd => regFieldOk cd
  | .pal cd imm => regFieldOk cd && palImmOk imm
  | .mix cd ca cb => regFieldOk cd && regFieldOk ca && regFieldOk cb
  | .mixr cd ca cb => regFieldOk cd && regFieldOk ca && regFieldOk cb
  | .opac cd ca => regFieldOk cd && regFieldOk ca
  | .cread ca => regFieldOk ca
  | .new => true
  | .each => true
  | .gput ca => regFieldOk ca
  | .pget cd => regFieldOk cd
  | .rest => true
  | .clrerr => true

end Sys2Proof
end

