-- ==== Sys2Proof/Decode.lean ====
section
/-! DEFINITION. Decoding of command words (30_encoding.md R58 to R68), total, and the encoder beside it. -/

namespace Sys2Proof

/-- Why a word is no command.  For both the engine answers ILLEGAL (R64); the two names tell R65 from R66
(the split into names is the model's own, log 18).  `truncated` answers a byte list too short to hold a
word, which never reaches the engine (R43). -/
inductive DecodeError where
  | reservedOpcode
  | mustBeZero
  | truncated
deriving DecidableEq, Repr

/-- Field cd, bits 23:20 (R59). -/
def cdField (w : Word) : BitVec 4 := w.extractLsb' 20 4

/-- Field ca, bits 19:16 (R59). -/
def caField (w : Word) : BitVec 4 := w.extractLsb' 16 4

/-- Field cb, bits 15:12 (R59). -/
def cbField (w : Word) : BitVec 4 := w.extractLsb' 12 4

/-- Field imm, bits 11:0 (R59). -/
def immField (w : Word) : BitVec 12 := w.extractLsb' 0 12

/-- Field opcode, bits 31:24 (R59). -/
def opcodeField (w : Word) : Byte := w.extractLsb' 24 8

/-- A row of R63: a word `w` is this command when `w &&& mask = pattern` (R64), and `build` takes the
fields the row uses. -/
structure OpcodeRow where
  pattern : Word
  mask : Word
  build : Word → Instr

/-- The opcode table, row by row (R63). -/
def opcodeTable : List OpcodeRow :=
  [ ⟨0x10000000#32, 0xFF8FFFFF#32, fun w => .rgb (cdField w)⟩,
    ⟨0x11000000#32, 0xFF8FFFF8#32, fun w => .pal (cdField w) (immField w)⟩,
    ⟨0x12000000#32, 0xFF888FFF#32, fun w => .mix (cdField w) (caField w) (cbField w)⟩,
    ⟨0x13000000#32, 0xFF888FFF#32, fun w => .mixr (cdField w) (caField w) (cbField w)⟩,
    ⟨0x14000000#32, 0xFF88FFFF#32, fun w => .opac (cdField w) (caField w)⟩,
    ⟨0x15000000#32, 0xFFF8FFFF#32, fun w => .cread (caField w)⟩,
    ⟨0x20000000#32, 0xFFFFFFFF#32, fun _ => .new⟩,
    ⟨0x21000000#32, 0xFFFFFFFF#32, fun _ => .each⟩,
    ⟨0x22000000#32, 0xFFF8FFFF#32, fun w => .gput (caField w)⟩,
    ⟨0x23000000#32, 0xFF8FFFFF#32, fun w => .pget (cdField w)⟩,
    ⟨0x24000000#32, 0xFFFFFFFF#32, fun _ => .rest⟩,
    ⟨0x3F000000#32, 0xFFFFFFFF#32, fun _ => .clrerr⟩ ]

/-- The row's match of R64. -/
def OpcodeRow.matches (row : OpcodeRow) (w : Word) : Bool := w &&& row.mask == row.pattern

/-- Some row of the table has the word's opcode (R65). -/
def opcodeListed (w : Word) : Bool := opcodeTable.any fun row => opcodeField row.pattern == opcodeField w

/-- Decoding of a word written to CMD (R64): the first row that matches, else no command. -/
def decode (w : Word) : Except DecodeError Instr :=
  match opcodeTable.find? (fun row => row.matches w) with
  | some row => .ok (row.build w)
  | none => if opcodeListed w then .error .mustBeZero else .error .reservedOpcode

/-- A word of the bus from its four bytes, the first carrying bits 7:0 (R45). -/
def wordOfBytes (b0 b1 b2 b3 : Byte) : Word := b3 ++ b2 ++ b1 ++ b0

/-- Decoding of a list of bytes as the bus numbers them (R45): one command and the bytes after it. -/
def decodeBytes : List Byte → Except DecodeError (Instr × List Byte)
  | b0 :: b1 :: b2 :: b3 :: rest =>
    match decode (wordOfBytes b0 b1 b2 b3) with
    | .ok i => .ok (i, rest)
    | .error e => .error e
  | _ => .error .truncated

/-- The decoder on a word numbered as spec/opcode_table.json numbers it.  Every row has one 32-bit word
(R58), so this is the word itself; a number that does not fit in 32 bits is no command word. -/
def decodeTableWord (nbits w : Nat) : Option Instr :=
  if w % 2 ^ nbits < 2 ^ 32 then (decode (BitVec.ofNat 32 (w % 2 ^ nbits))).toOption else none

/-- A word from its fields, laid out as in the figure of R59. -/
def assembleFields (opcode : Byte) (cd ca cb : BitVec 4) (imm : BitVec 12) : Word :=
  opcode ++ cd ++ ca ++ cb ++ imm

/-- The opcode of each command (R63, R69). -/
def Instr.opcode : Instr → Byte
  | .rgb _ => 0x10#8
  | .pal _ _ => 0x11#8
  | .mix _ _ _ => 0x12#8
  | .mixr _ _ _ => 0x13#8
  | .opac _ _ => 0x14#8
  | .cread _ => 0x15#8
  | .new => 0x20#8
  | .each => 0x21#8
  | .gput _ => 0x22#8
  | .pget _ => 0x23#8
  | .rest => 0x24#8
  | .clrerr => 0x3F#8

/-- The command word (R59, R69): unused fields are zero (R66). -/
def encode : Instr → Word
  | .rgb cd => assembleFields 0x10#8 cd 0 0 0
  | .pal cd imm => assembleFields 0x11#8 cd 0 0 imm
  | .mix cd ca cb => assembleFields 0x12#8 cd ca cb 0
  | .mixr cd ca cb => assembleFields 0x13#8 cd ca cb 0
  | .opac cd ca => assembleFields 0x14#8 cd ca 0 0
  | .cread ca => assembleFields 0x15#8 0 ca 0 0
  | .new => assembleFields 0x20#8 0 0 0 0
  | .each => assembleFields 0x21#8 0 0 0 0
  | .gput ca => assembleFields 0x22#8 0 ca 0 0
  | .pget cd => assembleFields 0x23#8 cd 0 0 0
  | .rest => assembleFields 0x24#8 0 0 0 0
  | .clrerr => assembleFields 0x3F#8 0 0 0 0

end Sys2Proof
end

