-- ==== Sys2Proof/Config.lean ====
section
/-! DEFINITION. What an implementation fixes: the OPEN parameters of 00_scope.md R5.  They are plain data
held in the state's field `params`, which no step writes (log 1), so every statement about all states is a
statement about all parameter sets.  The model needs no other open value: no instruction of the spec
leaves a result undefined. -/

namespace Sys2Proof

/-- One of the three channels of a colour (R12). -/
inductive Channel where
  | red | green | blue
deriving DecidableEq, Repr

/-- CHANNEL_ORDER: one of the six permutations of (R, G, B), fixed when the engine is built (R5, R131). -/
inductive ChannelOrder where
  | rgb | rbg | grb | gbr | brg | bgr
deriving DecidableEq, Repr

/-- The parameter set of R5.  Pulse durations and their tolerance are in nanoseconds, T_RES is in
microseconds, ENGINE_BASE is a bus address. -/
structure Params where
  /-- MAX_LEDS, capacity of the pixel buffer -/
  maxLeds : Nat
  /-- CHANNEL_ORDER -/
  channelOrder : ChannelOrder
  /-- T0H and T0L, high and low part of a 0 bit -/
  t0h : Nat
  t0l : Nat
  /-- T1H and T1L, high and low part of a 1 bit -/
  t1h : Nat
  t1l : Nat
  /-- T_TOL, tolerance on each part -/
  tTol : Nat
  /-- T_RES, minimum low time of a latch -/
  tRes : Nat
  /-- ENGINE_BASE, bus address of the register window -/
  engineBase : Nat
deriving DecidableEq, Repr

/-- The parameter set that `State.reset` holds.  DESIGN CHOICE (log 2), unsafe: the spec leaves every one
of these OPEN.  CHANNEL_ORDER is the spec's own example (R14), MAX_LEDS the largest allowed, the timing
that of 93_implementation_defined.md G7 (which the spec does not adopt).  No statement rests on them. -/
def Params.reference : Params :=
  { maxLeds := 4294967295, channelOrder := .grb, t0h := 400, t0l := 850, t1h := 800, t1l := 450,
    tTol := 150, tRes := 50, engineBase := 0 }

end Sys2Proof
end

