-- ==== Sys2Proof/Machine/State.lean ====
section
/-! DEFINITION. The machine's state as plain data (10_state.md), what stops a step, and the state after
power-on.  INVENTORY.md lists every field with its rule. -/

namespace Sys2Proof.Machine

/-- The error codes a rejected command leaves in STATUS.ERR (60_exceptions.md R150).  Codes 6 to 15 are
never produced, so they have no constructor. -/
inductive ErrCode where
  | none | config | nocfg | illegal | state | range
deriving DecidableEq, Repr

/-- STATE (10_state.md R23), each state with the hidden data the spec gives it only there: GINDEX in GEN
(R27), the transmit cursor in TX (R29), the rest request in the two phases of REST (R30).  Log 7. -/
inductive Phase where
  | idle
  | gen (gindex : Word)
  | tx (txpos : Nat)
  | restDelay (us : Word)
  | restLatch (us : Word)
deriving DecidableEq, Repr

/-- The pin (10_state.md R22): released (OE = 0, no level of the engine's), or driven at a level (OE = 1). -/
inductive Pin where
  | released
  | driven (level : Bool)
deriving DecidableEq, Repr

/-- The symbols of the wire trace (42_protocol.md R125). -/
inductive Symbol where
  | enable
  | bit (b : Bool)
  | reset (us : Word)
  | release
deriving DecidableEq, Repr

/-- A bus statement of the HOST's program (30_encoding.md R70), with the bus address and, for a single
access, its width in bytes, so that the accesses the model refuses can be written too (R44, R159). -/
inductive HostStmt where
  /-- one bus write of `value` -/
  | write (addr width : Nat) (value : Word)
  /-- one bus read -/
  | read (addr width : Nat)
  /-- read the word at `addr` until `(x & mask) == value` -/
  | poll (addr : Nat) (mask value : Word)
deriving DecidableEq, Repr

/-- Who moves next in the single total order of 20_memory.md R51; the reset input is an event of that
order too (70_reset_and_hazards.md R170). -/
inductive Turn where
  | host | engine | reset
deriving DecidableEq, Repr

/-- One value the HOST read, with the offset it read it from (00_scope.md R7). -/
structure ReadRecord where
  offset : Nat
  value : Word
deriving DecidableEq, Repr

/-- What stops the machine.  The engine itself has no fault and no trap (60_exceptions.md R154). -/
inductive Fault where
  /-- Raised by the transmit step when the cursor is not below 24 * LENGTH, where R141 names no bit.
  Safe: no run reaches such a state (R29), and the model stops rather than choose a symbol (log 12). -/
  | cursorPastFrame
deriving DecidableEq, Repr

/-- What the model refuses (60_exceptions.md R159). -/
inductive Refusal where
  /-- Raised by no arm of this model: every instruction has its meaning.  Safe. -/
  | notModelled (mnemonic : String)
  /-- Raised by a HOST access that is not 4 bytes wide (R44).  Safe: implementation-defined. -/
  | accessWidth
  /-- Raised by a HOST access whose offset is not a multiple of 4 (R44).  Safe: implementation-defined. -/
  | misalignedAccess
  /-- Raised by a HOST access outside ENGINE_BASE .. ENGINE_BASE + 0x3F (R42, R159).  Safe: the address is
  not the engine's. -/
  | outsideWindow
  /-- Raised by every step under a parameter set that breaks R135, R42 or the bound of MAX_LEDS (R159).
  Safe: no engine of this spec has such parameters. -/
  | badParameters
deriving DecidableEq, Repr

/-- A step's answer. -/
abbrev Answer (σ : Type) := Host.Outcome σ Fault Refusal

/-- The whole machine: the engine's state (10_state.md), the record of the pin (R32), and the environment:
the HOST's accesses still to come and the order of events, which the spec leaves free (20_memory.md R51)
and which are plain data here (log 3, 4). -/
structure State where
  /-- the implementation parameters (00_scope.md R5), written by no step (log 1) -/
  params : Params
  /-- C0 to C7 (R16) -/
  cregs : Vector Colour 8
  /-- OPND0, OPND1, OPND2 (R17) -/
  opnd0 : Word
  opnd1 : Word
  opnd2 : Word
  /-- RESULT (R18) -/
  result : Word
  /-- LENGTH (R19); STATUS.CFG is computed from it (R26) -/
  length : Word
  /-- the pixel buffer, `buf[0]` first (R20) -/
  buf : List Colour
  /-- STATE, with GINDEX, txpos and rest_us where they exist (R23, R27, R29, R30) -/
  phase : Phase
  /-- STATUS.ERR (R25) -/
  err : ErrCode
  /-- the pin's OE and LEVEL (R22) -/
  pin : Pin
  /-- wire_dirty (R31) -/
  wireDirty : Bool
  /-- the wire trace, oldest symbol first (R32) -/
  wire : List Symbol
  /-- the model's marks of 42_protocol.md R144: for each frame that no latch separates from the one before,
  or that a reset cut (R172), the position in `wire` of its first bit (log 9) -/
  undelimited : List Nat
  /-- the values the HOST has read, oldest first (00_scope.md R7; log 5) -/
  readLog : List ReadRecord
  /-- the HOST's accesses still to come, next one first (log 4) -/
  program : List HostStmt
  /-- whose turn it is, next one first (log 3) -/
  schedule : List Turn
deriving DecidableEq, Repr

/-- The state at power-on under the parameters `p`: the values of 10_state.md R35, an empty trace and
records, and no access or event to come. -/
def State.powerOn (p : Params) : State :=
  { params := p
    cregs := Vector.replicate 8 Colour.black
    opnd0 := 0#32
    opnd1 := 0#32
    opnd2 := 0#32
    result := 0#32
    length := 0#32
    buf := []
    phase := .idle
    err := .none
    pin := .released
    wireDirty := false
    wire := []
    undelimited := []
    readLog := []
    program := []
    schedule := [] }

/-- The machine right after reset at power-on (70_reset_and_hazards.md R171, R173), with the reference
parameters (DESIGN CHOICE, log 2). -/
def State.reset : State := State.powerOn Params.reference

end Sys2Proof.Machine
end

