-- ==== Sys2Proof/Machine/Ops.lean ====
section
/-! DEFINITION. The named operations over the state: colour registers, pixel buffer, wire, rejection of a
command, the reset input, and the check of the parameter set. -/

namespace Sys2Proof.Machine

/-- The colour register a field names: C[field[2:0]] (30_encoding.md R60). -/
def regIndex (f : BitVec 4) : Fin 8 := (f.extractLsb' 0 3).toFin

/-- `C[i]` of 00_scope.md R10. -/
def State.creg (s : State) (f : BitVec 4) : Colour := s.cregs[regIndex f]

/-- `C[i] <- c`: the whole colour at once (10_state.md R36). -/
def State.setCreg (s : State) (f : BitVec 4) (c : Colour) : State :=
  { s with cregs := s.cregs.set (regIndex f) c }

/-- `buf[i]`.  A buffer shorter than LENGTH, which no run holds, reads Black past its end (log 13). -/
def State.pixel (s : State) (i : Nat) : Colour := s.buf.getD i Colour.black

/-- `buf[i] <- c` (10_state.md R36). -/
def State.setPixel (s : State) (i : Nat) (c : Colour) : State :=
  { s with buf := s.buf.set i c }

/-- `STATE <- p`. -/
def State.enter (s : State) (p : Phase) : State := { s with phase := p }

/-- STATUS.CFG: 1 exactly when LENGTH >= 1 (10_state.md R26). -/
def State.configured (s : State) : Bool := s.length != 0#32

/-- A rejected command, which is what this engine has in place of an exception (60_exceptions.md R151,
R154): ERR takes the code, whatever it held, and nothing else changes. -/
def State.reject (s : State) (code : ErrCode) : State := { s with err := code }

/-- What ends a rejection's report (41_strip.md R113, 60_exceptions.md R155): ERR becomes 0. -/
def State.clearError (s : State) : State := { s with err := .none }

/-- Busy: STATE is TX, REST_DELAY or REST_LATCH (00_scope.md R13). -/
def Phase.busy : Phase → Bool
  | .idle => false
  | .gen _ => false
  | .tx _ => true
  | .restDelay _ => true
  | .restLatch _ => true

/-- The states in which a colour command is accepted: IDLE and GEN (40_color.md R75). -/
def Phase.acceptsColour : Phase → Bool
  | .idle => true
  | .gen _ => true
  | .tx _ => false
  | .restDelay _ => false
  | .restLatch _ => false

/-- A colour command: its effect in IDLE and GEN, else rejected STATE (40_color.md R75). -/
def colourCommand (s effect : State) : Answer State :=
  if s.phase.acceptsColour then .next effect else .next (s.reject .state)

/-- A strip command that needs IDLE and a strip: STATE, then NOCFG, then `k` (41_strip.md R100). -/
def idleStripCommand (s : State) (k : Answer State) : Answer State :=
  if s.phase ≠ .idle then .next (s.reject .state)
  else if s.configured = false then .next (s.reject .nocfg)
  else k

/-- The mark of a frame that a reset cuts (70_reset_and_hazards.md R172: the frame is undelimited): the
position of its first bit, unless the frame is marked already (log 9). -/
def State.cutFrameMark (s : State) : List Nat :=
  match s.phase with
  | .tx txpos =>
    if s.undelimited.contains (s.wire.length - txpos) then [] else [s.wire.length - txpos]
  | _ => []

/-- The reset input (70_reset_and_hazards.md R171, R172): every piece of the engine's state takes its value
of 10_state.md R35; the trace is kept and gains RELEASE when the pin was driven.  The parameters, the
records of a run and the HOST's program and the order of events are not the engine's state and stay
(log 23). -/
def State.resetInput (s : State) : State :=
  { s with
    cregs := Vector.replicate 8 Colour.black
    opnd0 := 0#32
    opnd1 := 0#32
    opnd2 := 0#32
    result := 0#32
    length := 0#32
    buf := []
    phase := .idle
    err := .none
    pin := .released
    wireDirty := false
    wire := if s.pin = .released then s.wire else s.wire ++ [.release]
    undelimited := s.undelimited ++ s.cutFrameMark }

/-- The parameter sets the model gives a meaning to (60_exceptions.md R159): the bound of MAX_LEDS
(00_scope.md R5), ENGINE_BASE a multiple of 64 (20_memory.md R42; log 10), and the five constraints of
42_protocol.md R135 with the orders of R134. -/
def legalParams (p : Params) : Bool :=
  decide
    ((1 ≤ p.maxLeds ∧ p.maxLeds ≤ 2 ^ 32 - 1) ∧ p.engineBase % 64 = 0 ∧
      (0 < p.t0h ∧ 0 < p.t0l ∧ 0 < p.t1h ∧ 0 < p.t1l ∧ 0 < p.tTol ∧ 0 < p.tRes) ∧
      (p.t1l < p.t1h ∧ p.t0h < p.t1h ∧ p.t0h < p.t0l) ∧
      p.t0h + p.t0l = p.t1h + p.t1l ∧
      max p.t0l p.t1l + p.tTol < 1000 * p.tRes ∧
      p.t0h + p.tTol + p.tTol < p.t1h)

end Sys2Proof.Machine
end

