-- ==== Sys2Proof/Machine/Operands.lean ====
section
/-! DEFINITION. Operand forms: register numbers, the palette index, binary32 and u32 operand words, and the
conversions between channel values and bytes (30_encoding.md R60 to R62; 40_color.md R77, R78;
42_protocol.md R129). -/

namespace Sys2Proof.Machine

/-- `clamp01` of 00_scope.md R9. -/
def clamp01 (x : Rat) : Rat := min 1 (max 0 x)

/-- 2 to the power `k`, `k` of either sign. -/
def pow2 (k : Int) : Rat :=
  match k with
  | .ofNat n => ((2 ^ n : Nat) : Rat)
  | .negSucc n => 1 / ((2 ^ (n + 1) : Nat) : Rat)

/-- Sign, exponent and fraction of a binary32 word (40_color.md R77). -/
def f32Sign (w : Word) : Bool := w.getLsbD 31
def f32Exponent (w : Word) : Nat := (w.extractLsb' 23 8).toNat
def f32Fraction (w : Word) : Nat := (w.extractLsb' 0 23).toNat

/-- MAXF, the largest finite binary32 value (40_color.md R78). -/
def maxF : Rat := ((2 ^ 128 - 2 ^ 104 : Nat) : Rat)

/-- The magnitude of a binary32 word: R77 for a finite word; for exponent 255 a NaN counts as 0 and an
infinity as MAXF (R78). -/
def f32Magnitude (w : Word) : Rat :=
  if f32Exponent w = 255 then
    if f32Fraction w = 0 then maxF else 0
  else if f32Exponent w = 0 then (f32Fraction w : Rat) * pow2 (-149)
  else ((2 ^ 23 + f32Fraction w : Nat) : Rat) * pow2 ((f32Exponent w : Int) - 150)

/-- The exact value of a binary32 operand word (40_color.md R77, R78). -/
def f32 (w : Word) : Rat :=
  if f32Sign w then -(f32Magnitude w) else f32Magnitude w

/-- The 8-bit conversion: nearest, ties upward (42_protocol.md R129).  Its value for a channel outside
[0, 1], which no run holds (R21), is the low byte of the floor (log 20). -/
def q8 (x : Rat) : Byte := BitVec.ofInt 8 (Rat.floor (255 * x + 1 / 2))

/-- The pack function of CREAD (40_color.md R97): bytes R, G, B, bits 31:24 zero. -/
def packColour (c : Colour) : Word := 0#8 ++ q8 c.r ++ q8 c.g ++ q8 c.b

/-- The palette index k = imm[2:0] (30_encoding.md R61). -/
def paletteIndex (imm : BitVec 12) : BitVec 3 := imm.extractLsb' 0 3

/-- The palette (40_color.md R80). -/
def palette (k : BitVec 3) : Colour :=
  match k.toNat with
  | 0 => ⟨0, 0, 0⟩
  | 1 => ⟨1, 0, 0⟩
  | 2 => ⟨0, 1, 0⟩
  | 3 => ⟨1, 1, 0⟩
  | 4 => ⟨0, 0, 1⟩
  | 5 => ⟨1, 0, 1⟩
  | 6 => ⟨0, 1, 1⟩
  | _ => ⟨1, 1, 1⟩

end Sys2Proof.Machine
end

