-- ==== Sys2Proof/Machine/Flags.lean ====
section
/-! DEFINITION. The status word.  The engine has no condition codes and no arithmetic flags (10_state.md
R33); its only status bits are STATUS.STATE, STATUS.CFG and STATUS.ERR (R24). -/

namespace Sys2Proof.Machine

/-- The three-bit code of STATE (10_state.md R23). -/
def Phase.code : Phase → BitVec 3
  | .idle => 0#3
  | .gen _ => 1#3
  | .tx _ => 2#3
  | .restDelay _ => 3#3
  | .restLatch _ => 4#3

/-- The four-bit code of ERR (60_exceptions.md R150). -/
def ErrCode.code : ErrCode → BitVec 4
  | .none => 0#4
  | .config => 1#4
  | .nocfg => 2#4
  | .illegal => 3#4
  | .state => 4#4
  | .range => 5#4

/-- The STATUS word (10_state.md R24): bits 31:8 zero, ERR 7:4, CFG 3, STATE 2:0. -/
def State.status (s : State) : Word :=
  0#24 ++ s.err.code ++ BitVec.ofBool s.configured ++ s.phase.code

/-- The GINDEX register: the pixel asked for in GEN, 0 in every other STATE (10_state.md R27). -/
def State.gindex (s : State) : Word :=
  match s.phase with
  | .gen i => i
  | _ => 0#32

end Sys2Proof.Machine
end

