-- ==== Sys2Proof/Machine/Color.lean ====
section
/-! DEFINITION. The colour unit: RGB, PAL, MIX, MIXR, OPAC, CREAD (40_color.md).  Every source is read before
the destination is written (R94): the effects below are functions of the state the command finds. -/

namespace Sys2Proof.Machine

/-- The colour RGB builds from three intensities (40_color.md R79). -/
def rgbColour (r g b : Rat) : Colour := ⟨clamp01 r, clamp01 g, clamp01 b⟩

/-- The mix function (40_color.md R83). -/
def mixColour (a b : Colour) : Colour := ⟨(a.r + b.r) / 2, (a.g + b.g) / 2, (a.b + b.b) / 2⟩

/-- One channel of mix_ratio, its weights' sum not zero (40_color.md R86). -/
def mixChannel (x y ws wo : Rat) : Rat := clamp01 ((x * ws + y * wo) / (ws + wo))

/-- The mix_ratio function (40_color.md R86): Black when the weights sum to 0. -/
def mixRatio (a b : Colour) (ws wo : Rat) : Colour :=
  if ws + wo = 0 then Colour.black
  else ⟨mixChannel a.r b.r ws wo, mixChannel a.g b.g ws wo, mixChannel a.b b.b ws wo⟩

/-- The opacity function (40_color.md R90). -/
def opacity (a : Colour) (f : Rat) : Colour := ⟨clamp01 (a.r * f), clamp01 (a.g * f), clamp01 (a.b * f)⟩

/-- RGB (40_color.md R79). -/
def execRgb (cd : BitVec 4) (s : State) : Answer State :=
  colourCommand s (s.setCreg cd (rgbColour (f32 s.opnd0) (f32 s.opnd1) (f32 s.opnd2)))

/-- PAL (40_color.md R81). -/
def execPal (cd : BitVec 4) (imm : BitVec 12) (s : State) : Answer State :=
  colourCommand s (s.setCreg cd (palette (paletteIndex imm)))

/-- MIX (40_color.md R84). -/
def execMix (cd ca cb : BitVec 4) (s : State) : Answer State :=
  colourCommand s (s.setCreg cd (mixColour (s.creg ca) (s.creg cb)))

/-- MIXR (40_color.md R87). -/
def execMixr (cd ca cb : BitVec 4) (s : State) : Answer State :=
  colourCommand s (s.setCreg cd (mixRatio (s.creg ca) (s.creg cb) (f32 s.opnd0) (f32 s.opnd1)))

/-- OPAC, by the pseudocode of 40_color.md R91, with which R91's remark on `+inf` disagrees for the smallest
channels (log 31). -/
def execOpac (cd ca : BitVec 4) (s : State) : Answer State :=
  colourCommand s (s.setCreg cd (opacity (s.creg ca) (f32 s.opnd0)))

/-- CREAD (40_color.md R98). -/
def execCread (ca : BitVec 4) (s : State) : Answer State :=
  colourCommand s { s with result := packColour (s.creg ca) }

end Sys2Proof.Machine
end

