-- ==== Sys2Proof/Machine/Strip.lean ====
section
/-! DEFINITION. The strip controller: NEW, EACH, GPUT, PGET, REST, CLRERR (41_strip.md). -/

namespace Sys2Proof.Machine

/-- The effect of an accepted NEW of `s.opnd0` pixels (41_strip.md R101). -/
def State.construct (s : State) : State :=
  { s with
    length := s.opnd0
    buf := List.replicate s.opnd0.toNat Colour.black
    pin := .driven false
    wireDirty := false
    wire := s.wire ++ [.enable] }

/-- NEW (41_strip.md R101, R102). -/
def execNew (s : State) : Answer State :=
  if s.phase ≠ .idle then .next (s.reject .state)
  else if s.configured then .next (s.reject .config)
  else if s.opnd0 = 0#32 ∨ s.params.maxLeds < s.opnd0.toNat then .next (s.reject .config)
  else .next s.construct

/-- EACH (41_strip.md R104). -/
def execEach (s : State) : Answer State :=
  idleStripCommand s (.next (s.enter (.gen 0#32)))

/-- The STATE after the pixel `i` of a frame is stored (41_strip.md R106): the next request, or TX with
txpos 0 after the last. -/
def afterPixel (length i : Word) : Phase :=
  if i.toNat + 1 < length.toNat then .gen (i + 1#32) else .tx 0

/-- GPUT (41_strip.md R106). -/
def execGput (ca : BitVec 4) (s : State) : Answer State :=
  match s.phase with
  | .gen i => .next ((s.setPixel i.toNat (s.creg ca)).enter (afterPixel s.length i))
  | _ => .next (s.reject .state)

/-- PGET (41_strip.md R112). -/
def execPget (cd : BitVec 4) (s : State) : Answer State :=
  idleStripCommand s
    (if s.length.toNat ≤ s.opnd0.toNat then .next (s.reject .range)
     else .next (s.setCreg cd (s.pixel s.opnd0.toNat)))

/-- REST (41_strip.md R115): rest_us takes OPND0. -/
def execRest (s : State) : Answer State :=
  idleStripCommand s (.next (s.enter (.restDelay s.opnd0)))

/-- CLRERR (41_strip.md R113), in every STATE. -/
def execClrerr (s : State) : Answer State := .next s.clearError

end Sys2Proof.Machine
end

