-- ==== Sys2Proof/Machine/Dispatch.lean ====
section
/-! DEFINITION. The meaning of each command that decoding accepts: one arm per constructor of Instr. -/

namespace Sys2Proof.Machine
open Sys2Proof

def exec (i : Instr) (s : State) : Host.Outcome State Fault Refusal :=
  match i with
  | .rgb cd => Sys2Proof.Machine.execRgb cd s
  | .pal cd imm => Sys2Proof.Machine.execPal cd imm s
  | .mix cd ca cb => Sys2Proof.Machine.execMix cd ca cb s
  | .mixr cd ca cb => Sys2Proof.Machine.execMixr cd ca cb s
  | .opac cd ca => Sys2Proof.Machine.execOpac cd ca s
  | .cread ca => Sys2Proof.Machine.execCread ca s
  | .new => Sys2Proof.Machine.execNew s
  | .each => Sys2Proof.Machine.execEach s
  | .gput ca => Sys2Proof.Machine.execGput ca s
  | .pget cd => Sys2Proof.Machine.execPget cd s
  | .rest => Sys2Proof.Machine.execRest s
  | .clrerr => Sys2Proof.Machine.execClrerr s

end Sys2Proof.Machine
end

