-- ==== Sys2Proof/Machine/Serializer.lean ====
section
/-! DEFINITION. The serializer: from the buffer to bits, the pulse shapes of the symbols, and the engine's own
steps (42_protocol.md; 41_strip.md R116, R117). -/

namespace Sys2Proof.Machine

/-- The channels in the order they are sent (42_protocol.md R131). -/
def channelSequence : ChannelOrder → List Channel
  | .rgb => [.red, .green, .blue]
  | .rbg => [.red, .blue, .green]
  | .grb => [.green, .red, .blue]
  | .gbr => [.green, .blue, .red]
  | .brg => [.blue, .red, .green]
  | .bgr => [.blue, .green, .red]

/-- One channel of a colour. -/
def channelValue (c : Colour) : Channel → Rat
  | .red => c.r
  | .green => c.g
  | .blue => c.b

/-- The bits of a channel byte, most significant first (42_protocol.md R132). -/
def byteBits (v : Byte) : List Bool :=
  [v.getLsbD 7, v.getLsbD 6, v.getLsbD 5, v.getLsbD 4, v.getLsbD 3, v.getLsbD 2, v.getLsbD 1, v.getLsbD 0]

/-- The 24 bits of a pixel (42_protocol.md R127, R131). -/
def pixelBits (order : ChannelOrder) (c : Colour) : List Bool :=
  (channelSequence order).flatMap fun ch => byteBits (q8 (channelValue c ch))

/-- The bits of a frame, pixel 0 first (42_protocol.md R127, R130). -/
def frameBits (order : ChannelOrder) (buf : List Colour) : List Bool := buf.flatMap (pixelBits order)

/-- How long a part of a symbol lasts: a nominal number of nanoseconds within a tolerance (42_protocol.md
R136), or at least a number of nanoseconds. -/
inductive PartTime where
  | within (ns tol : Nat)
  | atLeast (ns : Nat)
deriving DecidableEq, Repr

/-- A stretch of the line at one level. -/
structure WirePart where
  level : Bool
  time : PartTime
deriving DecidableEq, Repr

/-- What the pin does during a symbol (42_protocol.md R125, R133): a bit is high, then low; a latch is low
for at least `us` microseconds plus T_RES; ENABLE drives the line low; after RELEASE the engine drives
nothing. -/
def symbolParts (p : Params) : Symbol → List WirePart
  | .enable => [⟨false, .atLeast 0⟩]
  | .bit true => [⟨true, .within p.t1h p.tTol⟩, ⟨false, .within p.t1l p.tTol⟩]
  | .bit false => [⟨true, .within p.t0h p.tTol⟩, ⟨false, .within p.t0l p.tTol⟩]
  | .reset us => [⟨false, .atLeast (1000 * (us.toNat + p.tRes))⟩]
  | .release => []

/-- The line's levels and durations along a trace.  Within a frame the bits follow each other with no gap
(42_protocol.md R137).  DESIGN CHOICE (log 30), unsafe: a trace does not tell how long the line idles low between a
frame's last bit and the next symbol, which the spec leaves any value (R126, R144), and the waveform has no part
for it. -/
def waveform (p : Params) (trace : List Symbol) : List WirePart := trace.flatMap (symbolParts p)

/-- T_BIT (42_protocol.md R135). -/
def bitPeriod (p : Params) : Nat := p.t0h + p.t0l

/-- The nominal duration of a part, in nanoseconds. -/
def partNs : PartTime → Nat
  | .within ns _ => ns
  | .atLeast ns => ns

/-- The nominal duration of a stretch of the line (42_protocol.md R139, R181); of one frame's bits, since the idle
time between frames is not in the waveform (log 30). -/
def wireNs (parts : List WirePart) : Nat := (parts.map fun part => partNs part.time).sum

/-- The pin after a bit symbol: every bit ends with its low part (42_protocol.md R126, R133). -/
def Pin.low : Pin → Pin
  | .released => .released
  | .driven _ => .driven false

/-- The marks after the first bit of a frame is sent at `txpos = 0`: the frame is undelimited when
`wire_dirty` is set (42_protocol.md R144; log 9). -/
def State.markFrame (s : State) (txpos : Nat) : List Nat :=
  if txpos = 0 ∧ s.wireDirty = true then s.undelimited ++ [s.wire.length] else s.undelimited

/-- The transmit step (42_protocol.md R141): one bit symbol; after the last one the engine is IDLE. -/
def transmitStep (txpos : Nat) (s : State) : Answer State :=
  match (frameBits s.params.channelOrder s.buf)[txpos]? with
  | some b => .next
      { s with
        wire := s.wire ++ [.bit b]
        pin := s.pin.low
        undelimited := s.markFrame txpos
        wireDirty := true
        phase := if txpos + 1 = 24 * s.length.toNat then .idle else .tx (txpos + 1) }
  | none => .fault .cursorPastFrame

/-- The end of REST's delay (41_strip.md R116): nothing is emitted. -/
def delayStep (us : Word) (s : State) : State := s.enter (.restLatch us)

/-- The end of REST's latch (41_strip.md R117). -/
def latchStep (us : Word) (s : State) : State :=
  { s with wire := s.wire ++ [.reset us], wireDirty := false, phase := .idle }

/-- The engine's turn: the step its STATE enables.  In IDLE and GEN it has none (10_state.md R15, 41_strip.md
R105), and its turn changes nothing (log 6). -/
def engineStep (s : State) : Answer State :=
  match s.phase with
  | .idle => .next s
  | .gen _ => .next s
  | .tx txpos => transmitStep txpos s
  | .restDelay us => .next (delayStep us s)
  | .restLatch us => .next (latchStep us s)

end Sys2Proof.Machine
end

