-- ==== Sys2Proof/Machine/Bus.lean ====
section
/-! DEFINITION. The register window and the HOST's accesses (20_memory.md R40 to R52), a word written to CMD
(30_encoding.md R64), and the turns of the agents (20_memory.md R51). -/

namespace Sys2Proof.Machine

/-- The registers of the window (20_memory.md R41). -/
inductive WindowReg where
  | cmd | status | opnd0 | opnd1 | opnd2 | result | length | gindex | reserved
deriving DecidableEq, Repr

/-- The register at a byte offset of the window (20_memory.md R41). -/
def windowReg (off : Nat) : WindowReg :=
  match off with
  | 0x00 => .cmd
  | 0x04 => .status
  | 0x08 => .opnd0
  | 0x0C => .opnd1
  | 0x10 => .opnd2
  | 0x14 => .result
  | 0x18 => .length
  | 0x1C => .gindex
  | _ => .reserved

/-- The offset of a register (20_memory.md R41); for the reserved ones, the first of them. -/
def WindowReg.offset : WindowReg → Nat
  | .cmd => 0x00
  | .status => 0x04
  | .opnd0 => 0x08
  | .opnd1 => 0x0C
  | .opnd2 => 0x10
  | .result => 0x14
  | .length => 0x18
  | .gindex => 0x1C
  | .reserved => 0x20

/-- What a HOST read of an offset returns (20_memory.md R41, R48; 10_state.md R28). -/
def State.readWindow (s : State) (off : Nat) : Word :=
  match windowReg off with
  | .cmd => 0#32
  | .status => s.status
  | .opnd0 => s.opnd0
  | .opnd1 => s.opnd1
  | .opnd2 => s.opnd2
  | .result => s.result
  | .length => s.length
  | .gindex => s.gindex
  | .reserved => 0#32

/-- Byte `n` of the window: byte `off + k` carries bits 8k+7:8k of the register at `off` (20_memory.md R45).
A view of the state, not an access of the engine (log 22). -/
def State.windowByte (s : State) (n : Nat) : Byte :=
  (s.readWindow (4 * (n / 4))).extractLsb' (8 * (n % 4)) 8

/-- A word written to CMD (30_encoding.md R64, 20_memory.md R49): the command it spells, else rejected
ILLEGAL. -/
def execWord (w : Word) (s : State) : Answer State :=
  match decode w with
  | .ok i => exec i s
  | .error _ => .next (s.reject .illegal)

/-- A HOST write of an offset (20_memory.md R41, R48). -/
def writeWindow (off : Nat) (v : Word) (s : State) : Answer State :=
  match windowReg off with
  | .cmd => execWord v s
  | .status => .next s
  | .opnd0 => .next { s with opnd0 := v }
  | .opnd1 => .next { s with opnd1 := v }
  | .opnd2 => .next { s with opnd2 := v }
  | .result => .next s
  | .length => .next s
  | .gindex => .next s
  | .reserved => .next s

/-- The offset of an access, or why the model refuses it (20_memory.md R44, 60_exceptions.md R159; the order
of the three checks is log 11). -/
def locate (p : Params) (addr width : Nat) : Except Refusal Nat :=
  if width ≠ 4 then .error .accessWidth
  else if addr < p.engineBase ∨ p.engineBase + 0x3F < addr then .error .outsideWindow
  else if (addr - p.engineBase) % 4 ≠ 0 then .error .misalignedAccess
  else .ok (addr - p.engineBase)

/-- The HOST takes note of a value it read (00_scope.md R7; log 5). -/
def State.logRead (s : State) (off : Nat) : State :=
  { s with readLog := s.readLog ++ [⟨off, s.readWindow off⟩] }

/-- One access of a HOST statement (30_encoding.md R70), the statement already taken from the program.  A
`poll` makes one read, and stands at the head of the program again while its condition fails (log 21). -/
def hostStatement (stmt : HostStmt) (s : State) : Answer State :=
  match stmt with
  | .write addr width v =>
    match locate s.params addr width with
    | .ok off => writeWindow off v s
    | .error r => .refused r
  | .read addr width =>
    match locate s.params addr width with
    | .ok off => .next (s.logRead off)
    | .error r => .refused r
  | .poll addr mask v =>
    match locate s.params addr 4 with
    | .ok off =>
      if s.readWindow off &&& mask = v then .next (s.logRead off)
      else .next { s.logRead off with program := .poll addr mask v :: s.program }
    | .error r => .refused r

/-- The HOST's turn: its next access, in program order (20_memory.md R51).  With no access left its turn
changes nothing (log 6). -/
def hostStep (s : State) : Answer State :=
  match s.program with
  | [] => .next s
  | stmt :: rest => hostStatement stmt { s with program := rest }

/-- One turn of the total order (20_memory.md R51, 70_reset_and_hazards.md R170). -/
def takeTurn (t : Turn) (s : State) : Answer State :=
  match t with
  | .host => hostStep s
  | .engine => engineStep s
  | .reset => .next s.resetInput

/-- Who moves once the given order is used up: the engine while it is busy, else the HOST, so that every
enabled engine step is taken in the end (70_reset_and_hazards.md R181; log 3). -/
def State.fairTurn (s : State) : Turn := if s.phase.busy then .engine else .host

end Sys2Proof.Machine
end

