-- ==== Sys2Proof/Machine/Step.lean ====
section
/-! DEFINITION. One step of the machine: the next event of the total order (20_memory.md R51). -/

namespace Sys2Proof.Machine

/-- One step.  A parameter set that breaks R135 has no meaning (60_exceptions.md R159).  Otherwise the next
turn of the order is taken; with none given, the fair one. -/
def step (s : State) : Host.Outcome State Fault Refusal :=
  if legalParams s.params then
    match s.schedule with
    | [] => takeTurn s.fairTurn s
    | t :: rest => takeTurn t { s with schedule := rest }
  else .refused .badParameters

/-- The state in which the very next step is the HOST's write of the word `w` to CMD, which is how this
machine comes to run a command (10_state.md R15, R28; log 4). -/
def State.withFetchWord (s : State) (nbits w : Nat) : State :=
  { s with
    program := .write s.params.engineBase 4 (BitVec.ofNat 32 (w % 2 ^ nbits)) :: s.program
    schedule := .host :: s.schedule }

end Sys2Proof.Machine
end

