-- ==== Sys2Proof/Machine/Assembler.lean ====
section
/-! DEFINITION. The notation of HOST programs: command syntax (30_encoding.md R69), bus statements (R70),
pseudo-instructions (R71) and decimal literals.  The engine itself uses none of it. -/

namespace Sys2Proof.Machine

/-- An operand of a command as written: a colour register, a palette index, or a palette name (R69). -/
inductive AsmOperand where
  | creg (n : Nat)
  | index (k : Nat)
  | name (text : String)
deriving DecidableEq, Repr

/-- A register the assembler accepts: `c0` to `c7` (R69). -/
def asmReg : AsmOperand → Option (BitVec 4)
  | .creg n => if n < 8 then some (BitVec.ofNat 4 n) else none
  | .index _ => none
  | .name _ => none

/-- The index of a palette name (40_color.md R80). -/
def paletteName (text : String) : Option Nat :=
  match text with
  | "black" => some 0
  | "red" => some 1
  | "green" => some 2
  | "yellow" => some 3
  | "blue" => some 4
  | "magenta" => some 5
  | "cyan" => some 6
  | "white" => some 7
  | _ => none

/-- A palette index the assembler accepts: 0 to 7, or a name (R69). -/
def asmIndex : AsmOperand → Option (BitVec 12)
  | .index k => if k < 8 then some (BitVec.ofNat 12 k) else none
  | .name text => (paletteName text).map (BitVec.ofNat 12)
  | .creg _ => none

/-- The command a mnemonic with its operands stands for; none where the assembler refuses (R69). -/
def asmCommand (mnemonic : String) (operands : List AsmOperand) : Option Instr :=
  match mnemonic, operands with
  | "rgb", [d] => do return .rgb (← asmReg d)
  | "pal", [d, k] => do return .pal (← asmReg d) (← asmIndex k)
  | "mix", [d, a, b] => do return .mix (← asmReg d) (← asmReg a) (← asmReg b)
  | "mixr", [d, a, b] => do return .mixr (← asmReg d) (← asmReg a) (← asmReg b)
  | "opac", [d, a] => do return .opac (← asmReg d) (← asmReg a)
  | "cread", [a] => do return .cread (← asmReg a)
  | "new", [] => some .new
  | "each", [] => some .each
  | "gput", [a] => do return .gput (← asmReg a)
  | "pget", [d] => do return .pget (← asmReg d)
  | "rest", [] => some .rest
  | "clrerr", [] => some .clrerr
  | _, _ => none

/-- The value of a decimal numeral. -/
def decimal (digits : List Char) : Option Nat :=
  if digits ≠ [] ∧ digits.all Char.isDigit = true then
    some (digits.foldl (fun n c => 10 * n + (c.toNat - '0'.toNat)) 0)
  else none

/-- An operand from its characters, blanks removed. -/
def parseOperand (chars : List Char) : AsmOperand :=
  match decimal chars with
  | some k => .index k
  | none =>
    match chars with
    | 'c' :: digits =>
      match decimal digits with
      | some n => .creg n
      | none => .name (String.ofList chars)
    | _ => .name (String.ofList chars)

/-- The pieces of a text between commas, blanks removed. -/
def splitCommas : List Char → List (List Char)
  | [] => [[]]
  | ',' :: rest => [] :: splitCommas rest
  | ' ' :: rest => splitCommas rest
  | c :: rest =>
    match splitCommas rest with
    | piece :: pieces => (c :: piece) :: pieces
    | [] => [[c]]

/-- A line of assembler: the mnemonic, then its operands separated by commas, to its word (R69). -/
def assembleLine (line : String) : Option Word :=
  let chars := line.toList
  let mnemonic := chars.takeWhile (· ≠ ' ')
  let rest := (chars.dropWhile (· ≠ ' ')).filter (· ≠ ' ')
  let operands := if rest = [] then [] else (splitCommas rest).map parseOperand
  (asmCommand (String.ofList mnemonic) operands).map encode

/-- `wr REG, v` (R70). -/
def wr (p : Params) (reg : WindowReg) (v : Word) : HostStmt := .write (p.engineBase + reg.offset) 4 v

/-- `rd REG -> x` (R70); the value goes to the read log. -/
def rd (p : Params) (reg : WindowReg) : HostStmt := .read (p.engineBase + reg.offset) 4

/-- `poll REG, m, v` (R70). -/
def pollReg (p : Params) (reg : WindowReg) (mask v : Word) : HostStmt :=
  .poll (p.engineBase + reg.offset) mask v

/-- A bare command in a program: its word written to CMD (R70). -/
def command (p : Params) (i : Instr) : HostStmt := wr p .cmd (encode i)

/-- The greatest `n` below `acc + 2 ^ bits` with `n` at most the largest finite word and its binary32 value at
most `x`, found bit by bit from above. -/
def searchMagnitude (x : Rat) : Nat → Nat → Nat
  | 0, acc => acc
  | bits + 1, acc =>
    let candidate := acc + 2 ^ bits
    if candidate ≤ 0x7F7FFFFF ∧ f32Magnitude (BitVec.ofNat 32 candidate) ≤ x then
      searchMagnitude x bits candidate
    else searchMagnitude x bits acc

/-- The value a magnitude word stands for when rounding to it: past the largest finite word, 2^128, as IEEE 754
rounds (PRESUMED, log 19). -/
def roundingValue (n : Nat) : Rat :=
  if n ≤ 0x7F7FFFFF then f32Magnitude (BitVec.ofNat 32 n) else pow2 128

/-- The nearest magnitude word to `x >= 0`, ties to even (R71). -/
def nearestMagnitude (x : Rat) : Nat :=
  let lo := searchMagnitude x 31 0
  let below := x - roundingValue lo
  let above := roundingValue (lo + 1) - x
  if below < above then lo
  else if above < below then lo + 1
  else if lo % 2 = 0 then lo else lo + 1

/-- `F(x)`: the binary32 word nearest to the decimal literal `x`, ties to even (R71). -/
def nearestF32 (x : Rat) : Word :=
  if x < 0 then 0x80000000#32 ||| BitVec.ofNat 32 (nearestMagnitude (-x))
  else BitVec.ofNat 32 (nearestMagnitude x)

/-- A scalar literal: a decimal number, or a word used as it is (R71). -/
inductive Literal where
  | dec (x : Rat)
  | hex (w : Word)
deriving DecidableEq, Repr

/-- The operand word of a literal (R71). -/
def literalWord : Literal → Word
  | .dec x => nearestF32 x
  | .hex w => w

/-- The pseudo-instructions (R71). -/
inductive Pseudo where
  | rgbI (cd : BitVec 4) (r g b : Literal)
  | mixrI (cd ca cb : BitVec 4) (ws wo : Literal)
  | opacI (cd ca : BitVec 4) (f : Literal)
  | newI (n : Word)
  | pgetI (cd : BitVec 4) (i : Word)
  | restI (us : Word)
  | waitIdle
  | waitGen
deriving DecidableEq, Repr

/-- The statements a pseudo-instruction expands to, in order (R71). -/
def expand (p : Params) : Pseudo → List HostStmt
  | .rgbI cd r g b =>
    [wr p .opnd0 (literalWord r), wr p .opnd1 (literalWord g), wr p .opnd2 (literalWord b), command p (.rgb cd)]
  | .mixrI cd ca cb ws wo =>
    [wr p .opnd0 (literalWord ws), wr p .opnd1 (literalWord wo), command p (.mixr cd ca cb)]
  | .opacI cd ca f => [wr p .opnd0 (literalWord f), command p (.opac cd ca)]
  | .newI n => [wr p .opnd0 n, command p .new]
  | .pgetI cd i => [wr p .opnd0 i, command p (.pget cd)]
  | .restI us => [wr p .opnd0 us, command p .rest]
  | .waitIdle => [pollReg p .status 0x7#32 0x0#32]
  | .waitGen => [pollReg p .status 0x7#32 0x1#32]

end Sys2Proof.Machine
end

