-- ==== Sys2Proof/Safety.lean ====
section
/-! DEFINITION. The machine's invariant, and what counts as a finished run and as an undisturbed frame. -/

namespace Sys2Proof.Machine

/-- What 10_state.md says of GINDEX, txpos and the strip in each STATE: the states past IDLE exist only
with a strip (41_strip.md R100), GINDEX lies in 0..LENGTH-1 (R27), the cursor below 24 * LENGTH (R29). -/
def Phase.fits (length : Word) : Phase → Prop
  | .idle => True
  | .gen i => i.toNat < length.toNat
  | .tx txpos => txpos < 24 * length.toNat
  | .restDelay _ => length ≠ 0#32
  | .restLatch _ => length ≠ 0#32

/-- The invariant of the engine.  Every step keeps it and reset meets it. -/
structure Inv (s : State) : Prop where
  /-- every colour register holds a colour in range (R21) -/
  cregs_inRange : ∀ i : Fin 8, s.cregs[i].InRange
  /-- every pixel holds a colour in range (R21) -/
  buf_inRange : ∀ c ∈ s.buf, c.InRange
  /-- the buffer has LENGTH entries (R20) -/
  buf_length : s.buf.length = s.length.toNat
  /-- a constructed strip fits the buffer's capacity (41_strip.md R101) -/
  length_le : s.length ≠ 0#32 → s.length.toNat ≤ s.params.maxLeds
  /-- GINDEX, txpos and the strip agree with STATE (R23, R27, R29) -/
  phase_fits : s.phase.fits s.length
  /-- the engine drives the pin exactly while a strip is constructed, and low between symbols (R22, R103) -/
  pin_eq : s.pin = if s.length = 0#32 then .released else .driven false
  /-- an open frame exists only on a driven line (R31) -/
  dirty_constructed : s.wireDirty = true → s.length ≠ 0#32
  /-- RESULT[31:24] reads 0 (R18) -/
  result_top : s.result.extractLsb' 24 8 = 0#8

/-- A run is finished when the HOST has issued its last access and STATE = IDLE
(70_reset_and_hazards.md R182). -/
def State.finished (s : State) : Bool := s.program.isEmpty && decide (s.phase = .idle)

/-- The premise of claims about what the LEDs display: no frame was undelimited (42_protocol.md R144). -/
def State.allDelimited (s : State) : Bool := s.undelimited.isEmpty

end Sys2Proof.Machine
end

