-- ==== Sys2Proof/Certificates/Slice0/Obligations.lean ====
section
/-! DEFINITION. The statements for the provers.  Each docstring names the rule of spec/ it formalises.  All
hold under every parameter set: no statement rests on the reference parameters of log 2. -/

open Sys2Proof Sys2Proof.Machine

namespace Sys2Proof.Spec

/-- `w` is how the command `i` is written: with its must-be-zero bits clear, writing `w` to CMD runs `i`;
otherwise `w` is rejected ILLEGAL, whatever the state. -/
def Spells (w : Word) (i : Instr) : Prop :=
  (i.wellFormed = true → ∀ s, execWord w s = exec i s) ∧
  (i.wellFormed = false → ∀ s, execWord w s = .next { s with err := .illegal })

/-- The four bits of a field at their place in the word. -/
def place (f : BitVec 4) (at_ : Nat) : Word := f.setWidth 32 <<< at_

/-- STATE is IDLE or GEN. -/
def IdleOrGen (s : State) : Prop := s.phase = .idle ∨ ∃ i, s.phase = .gen i

/-- STATE is TX, REST_DELAY or REST_LATCH. -/
def Busy (s : State) : Prop :=
  (∃ p, s.phase = .tx p) ∨ (∃ us, s.phase = .restDelay us) ∨ ∃ us, s.phase = .restLatch us

/-- The rule of a colour command: accepted in IDLE and GEN with `effect`, rejected STATE when busy. -/
def ColourRule (i : Instr) (effect : State → State) : Prop :=
  ∀ s, (IdleOrGen s → exec i s = .next (effect s)) ∧
    (Busy s → exec i s = .next { s with err := .state })

/-- The state with the register `cd` names holding `c`. -/
def withCreg (s : State) (cd : BitVec 4) (c : Colour) : State :=
  { s with cregs := s.cregs.set (cd.extractLsb' 0 3).toFin c }

/-- The colour held in the register a field names. -/
def cregOf (s : State) (f : BitVec 4) : Colour := s.cregs[(f.extractLsb' 0 3).toFin]

/-- A number clamped to [0, 1] (00_scope.md R9). -/
def clamp (x : Rat) : Rat := min 1 (max 0 x)

/-- The colour commands (40_color.md). -/
def isColour : Instr → Bool
  | .rgb _ => true
  | .pal _ _ => true
  | .mix _ _ _ => true
  | .mixr _ _ _ => true
  | .opac _ _ => true
  | .cread _ => true
  | .new => false
  | .each => false
  | .gput _ => false
  | .pget _ => false
  | .rest => false
  | .clrerr => false

/-- The colour register a command writes when it is accepted. -/
def destination : Instr → Option (BitVec 4)
  | .rgb cd => some cd
  | .pal cd _ => some cd
  | .mix cd _ _ => some cd
  | .mixr cd _ _ => some cd
  | .opac cd _ => some cd
  | .cread _ => none
  | .new => none
  | .each => none
  | .gput _ => none
  | .pget cd => some cd
  | .rest => none
  | .clrerr => none

/-- The colour registers a command reads. -/
def sources : Instr → List (BitVec 4)
  | .rgb _ => []
  | .pal _ _ => []
  | .mix _ ca cb => [ca, cb]
  | .mixr _ ca cb => [ca, cb]
  | .opac _ ca => [ca]
  | .cread ca => [ca]
  | .new => []
  | .each => []
  | .gput ca => [ca]
  | .pget _ => []
  | .rest => []
  | .clrerr => []

/-- The operand registers a command reads (30_encoding.md R62): OPND0, OPND1, OPND2. -/
def operandsRead : Instr → Bool × Bool × Bool
  | .rgb _ => (true, true, true)
  | .pal _ _ => (false, false, false)
  | .mix _ _ _ => (false, false, false)
  | .mixr _ _ _ => (true, true, false)
  | .opac _ _ => (true, false, false)
  | .cread _ => (false, false, false)
  | .new => (true, false, false)
  | .each => (false, false, false)
  | .gput _ => (false, false, false)
  | .pget _ => (true, false, false)
  | .rest => (true, false, false)
  | .clrerr => (false, false, false)

/-- STATE is IDLE. -/
def isIdle : Phase → Bool
  | .idle => true
  | .gen _ => false
  | .tx _ => false
  | .restDelay _ => false
  | .restLatch _ => false

/-- STATE is GEN. -/
def isGen : Phase → Bool
  | .idle => false
  | .gen _ => true
  | .tx _ => false
  | .restDelay _ => false
  | .restLatch _ => false

/-- The table of 60_exceptions.md R152: the states in which the state check lets a command pass. -/
def passesStateCheck (i : Instr) (p : Phase) : Bool :=
  match i with
  | .rgb _ => isIdle p || isGen p
  | .pal _ _ => isIdle p || isGen p
  | .mix _ _ _ => isIdle p || isGen p
  | .mixr _ _ _ => isIdle p || isGen p
  | .opac _ _ => isIdle p || isGen p
  | .cread _ => isIdle p || isGen p
  | .new => isIdle p
  | .each => isIdle p
  | .gput _ => isGen p
  | .pget _ => isIdle p
  | .rest => isIdle p
  | .clrerr => true

/-- The strip check, then the operand check of 60_exceptions.md R152. -/
def stripAndOperandCheck (i : Instr) (s : State) : ErrCode :=
  match i with
  | .rgb _ => .none
  | .pal _ _ => .none
  | .mix _ _ _ => .none
  | .mixr _ _ _ => .none
  | .opac _ _ => .none
  | .cread _ => .none
  | .new =>
    if s.length ≠ 0#32 then .config
    else if s.opnd0 = 0#32 ∨ s.opnd0.toNat > s.params.maxLeds then .config
    else .none
  | .each => if s.length = 0#32 then .nocfg else .none
  | .gput _ => .none
  | .pget _ =>
    if s.length = 0#32 then .nocfg
    else if s.opnd0.toNat ≥ s.length.toNat then .range
    else .none
  | .rest => if s.length = 0#32 then .nocfg else .none
  | .clrerr => .none

/-- The first check of 60_exceptions.md R152 after decoding that a command fails; `.none` when it passes
them all. -/
def firstError (i : Instr) (s : State) : ErrCode :=
  if passesStateCheck i s.phase then stripAndOperandCheck i s else .state

/-- The command the HOST's turn writes to CMD: none when its next access is another one or its word decodes to
nothing. -/
def hostCommand (s : State) : Option Instr :=
  match s.program with
  | [] => none
  | .write addr _ w :: _ => if addr = s.params.engineBase then (decode w).toOption else none
  | .read _ _ :: _ => none
  | .poll _ _ _ :: _ => none

/-- STATE after a HOST's turn that writes the command `c` (10_state.md R23, R27, R30): EACH and REST leave IDLE
when a strip exists, REST with the OPND0 it finds; GPUT moves GEN on; nothing else changes STATE. -/
def stateAfterHost (length opnd0 : Word) (c : Option Instr) : Phase → Phase
  | .idle =>
    if c = some .each ∧ length ≠ 0#32 then .gen 0#32
    else if c = some .rest ∧ length ≠ 0#32 then .restDelay opnd0
    else .idle
  | .gen i =>
    match c with
    | some (.gput _) => if i.toNat + 1 < length.toNat then .gen (i + 1#32) else .tx 0
    | _ => .gen i
  | .tx p => .tx p
  | .restDelay us => .restDelay us
  | .restLatch us => .restLatch us

/-- STATE after the engine's turn (10_state.md R23, R29, R30). -/
def stateAfterEngine (length : Word) : Phase → Phase
  | .idle => .idle
  | .gen i => .gen i
  | .tx p => if p + 1 = 24 * length.toNat then .idle else .tx (p + 1)
  | .restDelay us => .restLatch us
  | .restLatch _ => .idle

/-- The turn a step takes: the next of the order given, else the fair one. -/
def turnOf (s : State) : Turn := s.schedule.head?.getD s.fairTurn

/-- A list of HOST writes (offset, value), one after the other. -/
def writes : List (Nat × Word) → State → Answer State
  | [], s => .next s
  | (off, v) :: rest, s =>
    match writeWindow off v s with
    | .next t => writes rest t
    | .fault r => .fault r
    | .refused r => .refused r

/-- A HOST write other than a GPUT: whatever the HOST writes while it prepares a pixel. -/
def Prepares (a : Nat × Word) : Prop := ∀ ca, a.1 = 0x00 → decode a.2 ≠ .ok (.gput ca)

/-- The writes that answer one generator request: the preparation, then GPUT of a register. -/
def answerWrites (a : List (Nat × Word) × BitVec 4) : List (Nat × Word) :=
  a.1 ++ [(0x00, encode (.gput a.2))]

/-- The colours a list of answers gives, each as it stands in its register when its GPUT runs (a GPUT writes
no register, so it is left out between them). -/
def givenColours : List (List (Nat × Word) × BitVec 4) → State → List Colour
  | [], _ => []
  | a :: rest, s =>
    match writes a.1 s with
    | .next t => cregOf t a.2 :: givenColours rest t
    | .fault _ => []
    | .refused _ => []

end Sys2Proof.Spec

open Sys2Proof.Spec

/-! Encoding -/

/-- 30_encoding.md R59, R60, R63, R69: no bit of an encoding is dropped. -/
def Obligations.DecodeOfEncode : Prop :=
  ∀ i : Instr, i.wellFormed = true → decode (encode i) = .ok i

/-- 30_encoding.md R63, R64: a legal word spells exactly one command, which is well-formed. -/
def Obligations.EncodeOfDecode : Prop :=
  ∀ (w : Word) (i : Instr), decode w = .ok i → i.wellFormed = true ∧ encode i = w

/-- 30_encoding.md R64: no two rows match the same word. -/
def Obligations.OpcodeRowsNeverOverlap : Prop :=
  ∀ (w : Word), ∀ row ∈ opcodeTable, ∀ row' ∈ opcodeTable, row.matches w = true → row'.matches w = true →
    row.pattern = row'.pattern ∧ decode w = .ok (row.build w)

/-- 30_encoding.md R65. -/
def Obligations.ReservedOpcodesAreIllegal : Prop :=
  (∀ (w : Word) (s : State),
    (opcodeField w ≤ 0x0F#8 ∨ (0x16#8 ≤ opcodeField w ∧ opcodeField w ≤ 0x1F#8) ∨
      (0x25#8 ≤ opcodeField w ∧ opcodeField w ≤ 0x3E#8) ∨ 0x40#8 ≤ opcodeField w) →
    execWord w s = .next { s with err := .illegal }) ∧
  ∀ s : State, execWord 0x00000000#32 s = .next { s with err := .illegal }

/-- 30_encoding.md R66: for each listed opcode, the bits that must be zero (the unused fields and the top bit
of each used register field). -/
def Obligations.MustBeZeroBitsAreIllegal : Prop :=
  ∀ row ∈ [(0x10#8, 0x008FFFFF#32), (0x11#8, 0x008FFFF8#32), (0x12#8, 0x00888FFF#32), (0x13#8, 0x00888FFF#32),
      (0x14#8, 0x0088FFFF#32), (0x15#8, 0x00F8FFFF#32), (0x20#8, 0x00FFFFFF#32), (0x21#8, 0x00FFFFFF#32),
      (0x22#8, 0x00F8FFFF#32), (0x23#8, 0x008FFFFF#32), (0x24#8, 0x00FFFFFF#32), (0x3F#8, 0x00FFFFFF#32)],
    ∀ (w : Word) (s : State), opcodeField w = row.1 → w &&& row.2 ≠ 0#32 →
      execWord w s = .next { s with err := .illegal }

/-- 20_memory.md R45 (the byte view is log 22): the bytes of a word of the window, the lowest at the lowest
offset, make up the word; and the four bytes of a command word, the lowest first, decode to the command, the
bytes after them left. -/
def Obligations.BytesAreLittleEndian : Prop :=
  (∀ (s : State) (off : Nat), off % 4 = 0 →
    (∀ k, k < 4 → s.windowByte (off + k) = (s.readWindow off).extractLsb' (8 * k) 8) ∧
    wordOfBytes (s.windowByte off) (s.windowByte (off + 1)) (s.windowByte (off + 2)) (s.windowByte (off + 3)) =
      s.readWindow off) ∧
  ∀ (i : Instr) (rest : List Byte), i.wellFormed = true →
    decodeBytes ((encode i).extractLsb' 0 8 :: (encode i).extractLsb' 8 8 :: (encode i).extractLsb' 16 8 ::
      (encode i).extractLsb' 24 8 :: rest) = .ok (i, rest)

/-- 30_encoding.md R72, the worked encodings. -/
def Obligations.WorkedEncodings : Prop :=
  (assembleLine "rgb c1" = some 0x10100000#32 ∧ decode 0x10100000#32 = .ok (.rgb 1)) ∧
  (assembleLine "pal c2, green" = some 0x11200002#32 ∧ decode 0x11200002#32 = .ok (.pal 2 2)) ∧
  (assembleLine "mixr c3, c2, c4" = some 0x13324000#32 ∧ decode 0x13324000#32 = .ok (.mixr 3 2 4)) ∧
  (assembleLine "opac c5, c7" = some 0x14570000#32 ∧ decode 0x14570000#32 = .ok (.opac 5 7)) ∧
  (assembleLine "cread c3" = some 0x15030000#32 ∧ decode 0x15030000#32 = .ok (.cread 3)) ∧
  (assembleLine "gput c0" = some 0x22000000#32 ∧ decode 0x22000000#32 = .ok (.gput 0)) ∧
  (assembleLine "pget c6" = some 0x23600000#32 ∧ decode 0x23600000#32 = .ok (.pget 6))

/-- 30_encoding.md R69: each row of the table of command syntax, and what an assembler refuses. -/
def Obligations.AssemblerFollowsSyntaxTable : Prop :=
  (∀ d a b k : Nat, d < 8 → a < 8 → b < 8 → k < 8 →
    (asmCommand "rgb" [.creg d]).map encode = some (BitVec.ofNat 32 (0x10000000 + d <<< 20)) ∧
    (asmCommand "pal" [.creg d, .index k]).map encode = some (BitVec.ofNat 32 (0x11000000 + d <<< 20 + k)) ∧
    (asmCommand "mix" [.creg d, .creg a, .creg b]).map encode =
      some (BitVec.ofNat 32 (0x12000000 + d <<< 20 + a <<< 16 + b <<< 12)) ∧
    (asmCommand "mixr" [.creg d, .creg a, .creg b]).map encode =
      some (BitVec.ofNat 32 (0x13000000 + d <<< 20 + a <<< 16 + b <<< 12)) ∧
    (asmCommand "opac" [.creg d, .creg a]).map encode =
      some (BitVec.ofNat 32 (0x14000000 + d <<< 20 + a <<< 16)) ∧
    (asmCommand "cread" [.creg a]).map encode = some (BitVec.ofNat 32 (0x15000000 + a <<< 16)) ∧
    (asmCommand "new" []).map encode = some 0x20000000#32 ∧
    (asmCommand "each" []).map encode = some 0x21000000#32 ∧
    (asmCommand "gput" [.creg a]).map encode = some (BitVec.ofNat 32 (0x22000000 + a <<< 16)) ∧
    (asmCommand "pget" [.creg d]).map encode = some (BitVec.ofNat 32 (0x23000000 + d <<< 20)) ∧
    (asmCommand "rest" []).map encode = some 0x24000000#32 ∧
    (asmCommand "clrerr" []).map encode = some 0x3F000000#32) ∧
  (∀ (m : String) (ops : List AsmOperand),
    m ∉ ["rgb", "pal", "mix", "mixr", "opac", "cread", "new", "each", "gput", "pget", "rest", "clrerr"] →
    asmCommand m ops = none) ∧
  (∀ (m : String) (ops : List AsmOperand) (n : Nat), AsmOperand.creg n ∈ ops → 8 ≤ n → asmCommand m ops = none) ∧
  (∀ (d : AsmOperand) (k : Nat), 8 ≤ k → asmCommand "pal" [d, .index k] = none) ∧
  ∀ entry ∈ [("black", 0), ("red", 1), ("green", 2), ("yellow", 3), ("blue", 4), ("magenta", 5), ("cyan", 6),
      ("white", 7)], ∀ d : AsmOperand,
    asmCommand "pal" [d, .name entry.1] = asmCommand "pal" [d, .index entry.2]

/-- 30_encoding.md R71: the word of a decimal literal is a nearest binary32 value, for every literal within the
finite range; when another value is as near, the word is the even one of the two. -/
def Obligations.LiteralsRoundToNearest : Prop :=
  ∀ (x : Rat) (w : Word), -maxF ≤ x → x ≤ maxF → f32Exponent w ≠ 255 →
    |f32 (nearestF32 x) - x| ≤ |f32 w - x| ∧
    (|f32 (nearestF32 x) - x| = |f32 w - x| → f32 w ≠ f32 (nearestF32 x) →
      (nearestF32 x)[0] = false ∧ w[0] = true)

/-! The colour commands -/

/-- 40_color.md R79. -/
def Obligations.RgbBuildsClampedColour : Prop :=
  ∀ cd : BitVec 4,
    Spells (0x10000000#32 + place cd 20) (.rgb cd) ∧
    ColourRule (.rgb cd) fun s =>
      withCreg s cd ⟨clamp (f32 s.opnd0), clamp (f32 s.opnd1), clamp (f32 s.opnd2)⟩

/-- 40_color.md R80, R81: the palette's table, and PAL. -/
def Obligations.PalLoadsPaletteColour : Prop :=
  (palette 0 = ⟨0, 0, 0⟩ ∧ palette 1 = ⟨1, 0, 0⟩ ∧ palette 2 = ⟨0, 1, 0⟩ ∧ palette 3 = ⟨1, 1, 0⟩ ∧
    palette 4 = ⟨0, 0, 1⟩ ∧ palette 5 = ⟨1, 0, 1⟩ ∧ palette 6 = ⟨0, 1, 1⟩ ∧ palette 7 = ⟨1, 1, 1⟩) ∧
  ∀ (cd : BitVec 4) (imm : BitVec 12),
    Spells (0x11000000#32 + place cd 20 + imm.setWidth 32) (.pal cd imm) ∧
    ColourRule (.pal cd imm) fun s => withCreg s cd (palette (imm.extractLsb' 0 3))

/-- 40_color.md R83, R84. -/
def Obligations.MixAveragesChannels : Prop :=
  ∀ cd ca cb : BitVec 4,
    Spells (0x12000000#32 + place cd 20 + place ca 16 + place cb 12) (.mix cd ca cb) ∧
    ColourRule (.mix cd ca cb) fun s =>
      withCreg s cd
        ⟨((cregOf s ca).r + (cregOf s cb).r) / 2, ((cregOf s ca).g + (cregOf s cb).g) / 2,
          ((cregOf s ca).b + (cregOf s cb).b) / 2⟩

/-- 40_color.md R86, R87. -/
def Obligations.MixrWeighsChannels : Prop :=
  (∀ (a b : Colour) (ws wo : Rat), ws + wo = 0 → mixRatio a b ws wo = ⟨0, 0, 0⟩) ∧
  (∀ (a b : Colour) (ws wo : Rat), ws + wo ≠ 0 →
    mixRatio a b ws wo =
      ⟨clamp ((a.r * ws + b.r * wo) / (ws + wo)), clamp ((a.g * ws + b.g * wo) / (ws + wo)),
        clamp ((a.b * ws + b.b * wo) / (ws + wo))⟩) ∧
  ∀ cd ca cb : BitVec 4,
    Spells (0x13000000#32 + place cd 20 + place ca 16 + place cb 12) (.mixr cd ca cb) ∧
    ColourRule (.mixr cd ca cb) fun s =>
      withCreg s cd (mixRatio (cregOf s ca) (cregOf s cb) (f32 s.opnd0) (f32 s.opnd1))

/-- 40_color.md R90, R77, R78 and R91's pseudocode.  For the factor `+inf` and a channel below 1 / MAXF, R91's
own remark says otherwise; that the pseudocode decides there is the model's reading (log 31). -/
def Obligations.OpacScalesChannels : Prop :=
  ∀ cd ca : BitVec 4,
    Spells (0x14000000#32 + place cd 20 + place ca 16) (.opac cd ca) ∧
    ColourRule (.opac cd ca) fun s =>
      withCreg s cd
        ⟨clamp ((cregOf s ca).r * f32 s.opnd0), clamp ((cregOf s ca).g * f32 s.opnd0),
          clamp ((cregOf s ca).b * f32 s.opnd0)⟩

/-- 40_color.md R97, R98: the packed word as a number, and CREAD. -/
def Obligations.CreadPacksBytes : Prop :=
  (∀ c : Colour,
    (packColour c).toNat = (q8 c.r).toNat * 2 ^ 16 + (q8 c.g).toNat * 2 ^ 8 + (q8 c.b).toNat ∧
    (packColour c).extractLsb' 24 8 = 0#8) ∧
  ∀ ca : BitVec 4,
    Spells (0x15000000#32 + place ca 16) (.cread ca) ∧
    ColourRule (.cread ca) fun s => { s with result := packColour (cregOf s ca) }

/-- 40_color.md R76, with R21: what the colour commands write is in range, whatever the operand words, when
their sources are; so the colour registers and the buffer stay in range under each of them. -/
def Obligations.ColourResultsStayInRange : Prop :=
  (∀ r g b : Rat, (rgbColour r g b).InRange) ∧
  (∀ k : BitVec 3, (palette k).InRange) ∧
  (∀ a b : Colour, a.InRange → b.InRange →
    (mixColour a b).InRange ∧ (∀ ws wo : Rat, (mixRatio a b ws wo).InRange) ∧
      ∀ f : Rat, (opacity a f).InRange) ∧
  ∀ (i : Instr) (s t : State), isColour i = true → (∀ r : Fin 8, s.cregs[r].InRange) → exec i s = .next t →
    (∀ r : Fin 8, t.cregs[r].InRange) ∧ t.buf = s.buf

/-- 40_color.md R85, for all colours (no range is needed for the first two, and the last two hold of colours in
range). -/
def Obligations.MixLaws : Prop :=
  (∀ a b : Colour, mixColour a b = mixColour b a) ∧
  (∀ a : Colour, mixColour a a = a) ∧
  (∀ a b : Colour, a.InRange → b.InRange → mixColour a b = mixRatio a b 1 1) ∧
  ∀ (a b : Colour) (w : Rat), a.InRange → b.InRange → w ≠ 0 → mixColour a b = mixRatio a b w w

/-- 40_color.md R88, the corner cases of MIXR on operand words: zero sums (both 0, opposite weights, two NaNs),
the weights (1, 0) and (0, 1), equal weights (two infinities among them), and the example of a negative
weight. -/
def Obligations.MixRatioCorners : Prop :=
  (∀ a b : Colour, mixRatio a b 0 0 = Colour.black) ∧
  (∀ (a b : Colour) (w : Rat), mixRatio a b w (-w) = Colour.black) ∧
  (∀ (a b : Colour) (x y : Word), f32Exponent x = 255 → f32Fraction x ≠ 0 → f32Exponent y = 255 →
    f32Fraction y ≠ 0 → mixRatio a b (f32 x) (f32 y) = Colour.black) ∧
  (∀ a b : Colour, a.InRange → b.InRange → mixRatio a b 1 0 = a ∧ mixRatio a b 0 1 = b) ∧
  (∀ a b : Colour, a.InRange → b.InRange →
    mixRatio a b (f32 0x7F800000#32) (f32 0x7F800000#32) = mixColour a b) ∧
  mixRatio ⟨1, 0, 1 / 2⟩ ⟨0, 1, 1 / 2⟩ 2 (-1) = ⟨1, 0, 1 / 2⟩

/-- 40_color.md R89: the swap law, the scale law, and that exchanging the colours alone can change the
result. -/
def Obligations.MixRatioLaws : Prop :=
  (∀ (a b : Colour) (ws wo : Rat), mixRatio a b ws wo = mixRatio b a wo ws) ∧
  (∀ (a b : Colour) (ws wo t : Rat), t ≠ 0 → mixRatio a b (t * ws) (t * wo) = mixRatio a b ws wo) ∧
  ∃ (a b : Colour) (ws wo : Rat), a.InRange ∧ b.InRange ∧ ws ≠ wo ∧ a ≠ b ∧
    mixRatio a b ws wo ≠ mixRatio b a ws wo

/-- 40_color.md R92: opacity by 0 and by 1, the composition law where R92 says that it holds, and the two
counterexamples (that the rest fails only in such examples is log 32). -/
def Obligations.OpacityLaws : Prop :=
  (∀ c : Colour, c.InRange → opacity c 0 = Colour.black ∧ opacity c 1 = c) ∧
  (∀ (c : Colour) (x y : Rat), c.InRange →
    (0 ≤ c.r * x ∧ c.r * x ≤ 1) → (0 ≤ c.g * x ∧ c.g * x ≤ 1) → (0 ≤ c.b * x ∧ c.b * x ≤ 1) →
    opacity (opacity c x) y = opacity c (x * y)) ∧
  (∀ (c : Colour) (x y : Rat), c.InRange → 0 ≤ x → x ≤ 1 → opacity (opacity c x) y = opacity c (x * y)) ∧
  (∀ (c : Colour) (x y : Rat), c.InRange → x ≤ 0 → 0 ≤ y → opacity (opacity c x) y = opacity c (x * y)) ∧
  (opacity (opacity ⟨1 / 2, 1 / 2, 1 / 2⟩ 4) (1 / 4) = ⟨1 / 4, 1 / 4, 1 / 4⟩ ∧
    opacity ⟨1 / 2, 1 / 2, 1 / 2⟩ (4 * (1 / 4)) = ⟨1 / 2, 1 / 2, 1 / 2⟩) ∧
  (opacity (opacity ⟨1 / 2, 1 / 2, 1 / 2⟩ (-1)) (-1) = Colour.black ∧
    opacity ⟨1 / 2, 1 / 2, 1 / 2⟩ (-1 * -1) = ⟨1 / 2, 1 / 2, 1 / 2⟩)

/-- 40_color.md R77 and R78: the value of every binary32 word. -/
def Obligations.BinaryWordsDecodeExactly : Prop :=
  ∀ w : Word,
    let s : Rat := if w[31] then -1 else 1
    let e := (w.extractLsb' 23 8).toNat
    let m := (w.extractLsb' 0 23).toNat
    (e = 0 → f32 w = s * (m * (2 : Rat) ^ (-149 : Int))) ∧
    (e ≠ 0 → e ≠ 255 → f32 w = s * ((2 ^ 23 + m) * (2 : Rat) ^ ((e : Int) - 150))) ∧
    (e = 255 → m ≠ 0 → f32 w = 0) ∧
    (e = 255 → m = 0 → f32 w = s * ((2 : Rat) ^ 128 - 2 ^ 104))

/-- 42_protocol.md R129: `q8` is nearest with ties upward: its thresholds, its ends, that it is monotone, and
the rule's examples. -/
def Obligations.ByteConversionThresholds : Prop :=
  (∀ x : Rat, 0 ≤ x → x ≤ 1 → ((q8 x).toNat : Int) = Rat.floor (255 * x + 1 / 2)) ∧
  (∀ (x : Rat) (k : Nat), 0 ≤ x → x ≤ 1 → 1 ≤ k → k ≤ 254 →
    ((q8 x).toNat = k ↔ ((2 * k - 1 : Rat) / 510 ≤ x ∧ x < (2 * k + 1 : Rat) / 510))) ∧
  (∀ x : Rat, 0 ≤ x → x ≤ 1 → (((q8 x).toNat = 0 ↔ x < 1 / 510) ∧ ((q8 x).toNat = 255 ↔ 509 / 510 ≤ x))) ∧
  (∀ x y : Rat, 0 ≤ x → x ≤ y → y ≤ 1 → (q8 x).toNat ≤ (q8 y).toNat) ∧
  q8 0 = 0#8 ∧ q8 1 = 255#8 ∧ q8 (1 / 2) = 128#8 ∧ q8 (1 / 4) = 64#8 ∧ q8 (3 / 4) = 191#8 ∧
    q8 (10 / 13) = 196#8 ∧ q8 (3 / 13) = 59#8

/-- 40_color.md R82: each palette colour is what RGB builds from the operand words of 0 and 1. -/
def Obligations.PaletteColoursAreOrdinary : Prop :=
  ∀ (cd : BitVec 4) (imm : BitVec 12) (s : State), IdleOrGen s →
    s.opnd0 = (if imm[0] then 0x3F800000#32 else 0#32) →
    s.opnd1 = (if imm[1] then 0x3F800000#32 else 0#32) →
    s.opnd2 = (if imm[2] then 0x3F800000#32 else 0#32) →
    exec (.rgb cd) s = exec (.pal cd imm) s

/-- 40_color.md R96: the colour a command writes depends only on its source colours and the operand words it
reads (30_encoding.md R62), not on STATE, the strip, or anything else. -/
def Obligations.ColourResultDependsOnlyOnSources : Prop :=
  ∀ (i : Instr) (cd : BitVec 4) (s s' t t' : State), isColour i = true → destination i = some cd →
    IdleOrGen s → IdleOrGen s' →
    (∀ f ∈ sources i, cregOf s f = cregOf s' f) →
    ((operandsRead i).1 = true → s.opnd0 = s'.opnd0) →
    ((operandsRead i).2.1 = true → s.opnd1 = s'.opnd1) →
    ((operandsRead i).2.2 = true → s.opnd2 = s'.opnd2) →
    exec i s = .next t → exec i s' = .next t' →
    cregOf t cd = cregOf t' cd

/-- 40_color.md R95, R99: what the colour family leaves alone.  RGB, PAL, MIX, MIXR and OPAC write only their
destination register, CREAD only RESULT, and a rejected one only ERR; every byte of the register window but
those of STATUS, and for CREAD those of RESULT, reads as before. -/
def Obligations.ColourCommandsFrame : Prop :=
  ∀ (i : Instr) (s t : State), isColour i = true → exec i s = .next t →
    t = { s with cregs := t.cregs, result := t.result, err := t.err } ∧
    (IdleOrGen s → t.err = s.err) ∧
    (∀ r : Fin 8, (∀ cd, destination i = some cd → (cd.extractLsb' 0 3).toFin ≠ r) →
      t.cregs[r] = s.cregs[r]) ∧
    ((∀ ca, i ≠ .cread ca) → t.result = s.result) ∧
    ∀ n, (n < 0x04 ∨ 0x08 ≤ n) → ((∃ ca, i = .cread ca) → n < 0x14 ∨ 0x18 ≤ n) →
      t.windowByte n = s.windowByte n

/-! The strip commands -/

/-- 41_strip.md R101, R102. -/
def Obligations.NewConstructsStrip : Prop :=
  Spells 0x20000000#32 .new ∧
  ∀ s : State,
    (s.phase ≠ .idle → exec .new s = .next { s with err := .state }) ∧
    (s.phase = .idle → s.length ≠ 0#32 → exec .new s = .next { s with err := .config }) ∧
    (s.phase = .idle → s.opnd0 = 0#32 → exec .new s = .next { s with err := .config }) ∧
    (s.phase = .idle → s.params.maxLeds < s.opnd0.toNat → exec .new s = .next { s with err := .config }) ∧
    (s.phase = .idle → s.length = 0#32 → 1 ≤ s.opnd0.toNat → s.opnd0.toNat ≤ s.params.maxLeds →
      exec .new s = .next
        { s with
          length := s.opnd0
          buf := List.replicate s.opnd0.toNat ⟨0, 0, 0⟩
          pin := .driven false
          wireDirty := false
          wire := s.wire ++ [.enable] })

/-- 41_strip.md R104. -/
def Obligations.EachOpensFrame : Prop :=
  Spells 0x21000000#32 .each ∧
  ∀ s : State,
    (s.phase ≠ .idle → exec .each s = .next { s with err := .state }) ∧
    (s.phase = .idle → s.length = 0#32 → exec .each s = .next { s with err := .nocfg }) ∧
    (s.phase = .idle → s.length ≠ 0#32 → exec .each s = .next { s with phase := .gen 0#32 })

/-- 41_strip.md R106. -/
def Obligations.GputStoresPixel : Prop :=
  ∀ ca : BitVec 4,
    Spells (0x22000000#32 + place ca 16) (.gput ca) ∧
    ∀ s : State,
      ((∀ i, s.phase ≠ .gen i) → exec (.gput ca) s = .next { s with err := .state }) ∧
      (∀ i : Word, s.phase = .gen i → i.toNat + 1 < s.length.toNat →
        exec (.gput ca) s = .next { s with buf := s.buf.set i.toNat (cregOf s ca), phase := .gen (i + 1#32) }) ∧
      (∀ i : Word, s.phase = .gen i → s.length.toNat ≤ i.toNat + 1 →
        exec (.gput ca) s = .next { s with buf := s.buf.set i.toNat (cregOf s ca), phase := .tx 0 })

/-- 41_strip.md R112. -/
def Obligations.PgetReadsPixel : Prop :=
  ∀ cd : BitVec 4,
    Spells (0x23000000#32 + place cd 20) (.pget cd) ∧
    ∀ s : State,
      (s.phase ≠ .idle → exec (.pget cd) s = .next { s with err := .state }) ∧
      (s.phase = .idle → s.length = 0#32 → exec (.pget cd) s = .next { s with err := .nocfg }) ∧
      (s.phase = .idle → s.length ≠ 0#32 → s.length.toNat ≤ s.opnd0.toNat →
        exec (.pget cd) s = .next { s with err := .range }) ∧
      (∀ c : Colour, s.phase = .idle → s.opnd0.toNat < s.length.toNat → s.buf[s.opnd0.toNat]? = some c →
        exec (.pget cd) s = .next (withCreg s cd c))

/-- 41_strip.md R115, with R116 and R117: REST samples OPND0 and enters REST_DELAY; its two engine steps
follow, and the latch records the sampled value. -/
def Obligations.RestDelaysThenLatches : Prop :=
  Spells 0x24000000#32 .rest ∧
  (∀ s : State,
    (s.phase ≠ .idle → exec .rest s = .next { s with err := .state }) ∧
    (s.phase = .idle → s.length = 0#32 → exec .rest s = .next { s with err := .nocfg }) ∧
    (s.phase = .idle → s.length ≠ 0#32 → exec .rest s = .next { s with phase := .restDelay s.opnd0 })) ∧
  (∀ (s : State) (us : Word), s.phase = .restDelay us →
    engineStep s = .next { s with phase := .restLatch us }) ∧
  ∀ (s : State) (us : Word), s.phase = .restLatch us →
    engineStep s = .next { s with wire := s.wire ++ [.reset us], wireDirty := false, phase := .idle }

/-- 41_strip.md R113. -/
def Obligations.ClrerrClearsError : Prop :=
  Spells 0x3F000000#32 .clrerr ∧ ∀ s : State, exec .clrerr s = .next { s with err := .none }

/-- What the strip family leaves alone (41_strip.md R101 to R115, R120): the fields each command may write,
that GPUT writes one pixel and PGET one colour register, and the bytes of the register window that read as
before: all but STATUS, and LENGTH for NEW, GINDEX for GPUT. -/
def Obligations.StripCommandsFrame : Prop :=
  ∀ s t : State,
    (exec .new s = .next t →
      t = { s with length := t.length, buf := t.buf, pin := t.pin, wireDirty := t.wireDirty, wire := t.wire,
                   err := t.err } ∧
      ∀ n, (n < 0x04 ∨ 0x08 ≤ n) → (n < 0x18 ∨ 0x1C ≤ n) → t.windowByte n = s.windowByte n) ∧
    (exec .each s = .next t →
      t = { s with phase := t.phase, err := t.err } ∧
      ∀ n, (n < 0x04 ∨ 0x08 ≤ n) → t.windowByte n = s.windowByte n) ∧
    (∀ ca, exec (.gput ca) s = .next t →
      t = { s with buf := t.buf, phase := t.phase, err := t.err } ∧
      t.buf.length = s.buf.length ∧
      (∀ j, j ≠ s.gindex.toNat → t.buf[j]? = s.buf[j]?) ∧
      ∀ n, (n < 0x04 ∨ 0x08 ≤ n) → (n < 0x1C ∨ 0x20 ≤ n) → t.windowByte n = s.windowByte n) ∧
    (∀ cd, exec (.pget cd) s = .next t →
      t = { s with cregs := t.cregs, err := t.err } ∧
      (∀ r : Fin 8, (cd.extractLsb' 0 3).toFin ≠ r → t.cregs[r] = s.cregs[r]) ∧
      ∀ n, (n < 0x04 ∨ 0x08 ≤ n) → t.windowByte n = s.windowByte n) ∧
    (exec .rest s = .next t →
      t = { s with phase := t.phase, err := t.err } ∧
      ∀ n, (n < 0x04 ∨ 0x08 ≤ n) → t.windowByte n = s.windowByte n) ∧
    (exec .clrerr s = .next t →
      t = { s with err := t.err } ∧
      ∀ n, (n < 0x04 ∨ 0x08 ≤ n) → t.windowByte n = s.windowByte n)

/-! Rejection and status -/

/-- 60_exceptions.md R151 and 10_state.md R25: a command that is rejected leaves its code and changes nothing
else; one that passes every check and is not CLRERR leaves ERR as it was; no command stops the machine. -/
def Obligations.RejectionIsPrecise : Prop :=
  ∀ (w : Word) (s : State), ∃ t, execWord w s = .next t ∧
    ((∃ code, code ≠ .none ∧ t = { s with err := code }) ∨
      (decode w = .ok .clrerr ∧ t = { s with err := .none }) ∨
      (∃ i, decode w = .ok i ∧ i ≠ .clrerr ∧ firstError i s = .none ∧ t.err = s.err))

/-- 60_exceptions.md R152: decoding first, then STATE, the strip, the operand value; the first check that
fails gives the one error, and a command that passes them all is accepted. -/
def Obligations.ChecksRunInOrder : Prop :=
  (∀ (w : Word) (e : DecodeError) (s : State), decode w = .error e →
    execWord w s = .next { s with err := .illegal }) ∧
  (∀ (w : Word) (i : Instr) (s : State), decode w = .ok i → firstError i s ≠ .none →
    execWord w s = .next { s with err := firstError i s }) ∧
  ∀ (w : Word) (i : Instr) (s : State), decode w = .ok i → firstError i s = .none →
    ∃ t, execWord w s = .next t ∧ t.err = if i = .clrerr then .none else s.err

/-- 10_state.md R24 with the codes of R23 and 60_exceptions.md R150, and R26. -/
def Obligations.StatusLayout : Prop :=
  (Phase.code .idle = 0#3 ∧ (∀ i, Phase.code (.gen i) = 1#3) ∧ (∀ p, Phase.code (.tx p) = 2#3) ∧
    (∀ us, Phase.code (.restDelay us) = 3#3) ∧ ∀ us, Phase.code (.restLatch us) = 4#3) ∧
  (ErrCode.code .none = 0#4 ∧ ErrCode.code .config = 1#4 ∧ ErrCode.code .nocfg = 2#4 ∧
    ErrCode.code .illegal = 3#4 ∧ ErrCode.code .state = 4#4 ∧ ErrCode.code .range = 5#4) ∧
  ∀ s : State,
    (s.readWindow 0x04).extractLsb' 0 3 = s.phase.code ∧
    ((s.readWindow 0x04)[3] = true ↔ 1 ≤ s.length.toNat) ∧
    (s.readWindow 0x04).extractLsb' 4 4 = s.err.code ∧
    (s.readWindow 0x04).extractLsb' 8 24 = 0#24 ∧
    (∀ v, writeWindow 0x04 v s = .next s) ∧
    ∀ p : Params, (State.powerOn p).readWindow 0x04 = 0#32

/-! The register window and the bus -/

/-- 20_memory.md R41, the read column, with 10_state.md R27 and R28; the fields of STATUS are in StatusLayout. -/
def Obligations.WindowReadMap : Prop :=
  ∀ s : State,
    s.readWindow 0x00 = 0#32 ∧ s.readWindow 0x04 = s.status ∧ s.readWindow 0x08 = s.opnd0 ∧
    s.readWindow 0x0C = s.opnd1 ∧ s.readWindow 0x10 = s.opnd2 ∧ s.readWindow 0x14 = s.result ∧
    s.readWindow 0x18 = s.length ∧
    (∀ i, s.phase = .gen i → s.readWindow 0x1C = i) ∧
    ((∀ i, s.phase ≠ .gen i) → s.readWindow 0x1C = 0#32) ∧
    ∀ off, 0x20 ≤ off → off ≤ 0x3C → s.readWindow off = 0#32

/-- 20_memory.md R47: a HOST read changes nothing of the engine (it only leaves the HOST's program and enters
the log of values read, the model's own fields of log 4 and log 5), and two reads with nothing between return
the same value. -/
def Obligations.ReadsHaveNoSideEffect : Prop :=
  ∀ (s : State) (off : Nat) (rest : List HostStmt), off < 0x40 → off % 4 = 0 →
    (s.program = .read (s.params.engineBase + off) 4 :: rest →
      hostStep s = .next
        { s with program := rest, readLog := s.readLog ++ [⟨off, s.readWindow off⟩] }) ∧
    (s.program = .read (s.params.engineBase + off) 4 :: .read (s.params.engineBase + off) 4 :: rest →
      ∃ t, hostStep s = .next t ∧ hostStep t = .next
        { s with program := rest,
                 readLog := s.readLog ++ [⟨off, s.readWindow off⟩, ⟨off, s.readWindow off⟩] })

/-- 20_memory.md R48, R50, R52 and 10_state.md R17, what a HOST write of an offset other than CMD's does, in every
STATE: of a read-only or reserved offset nothing; of an operand register it stores the value and changes
nothing else (a rest in progress keeps its own copy), and writing it twice is writing it once. -/
def Obligations.WindowWritesByRegister : Prop :=
  (∀ (s : State) (v : Word) (off : Nat),
    (off = 0x04 ∨ off = 0x14 ∨ off = 0x18 ∨ off = 0x1C ∨ (0x20 ≤ off ∧ off ≤ 0x3C)) →
    writeWindow off v s = .next s ∧ (0x20 ≤ off → s.readWindow off = 0#32)) ∧
  ∀ (s : State) (v : Word),
    writeWindow 0x08 v s = .next { s with opnd0 := v } ∧
    writeWindow 0x0C v s = .next { s with opnd1 := v } ∧
    writeWindow 0x10 v s = .next { s with opnd2 := v } ∧
    (∀ off t, (off = 0x08 ∨ off = 0x0C ∨ off = 0x10) → writeWindow off v s = .next t →
      writeWindow off v t = .next t ∧ t.readWindow off = v)

/-- 20_memory.md R44 and 60_exceptions.md R159 (ENGINE_BASE among the refused parameters is log 10): what the
model refuses, and that every aligned word access of the window goes on.  The accesses are those of 30_encoding.md
R70: a read, a write, and a poll, whose read is always a word. -/
def Obligations.BadAccessesAreRefused : Prop :=
  (∀ s : State, legalParams s.params = false → step s = .refused .badParameters) ∧
  (∀ (s : State) (addr : Nat) (mask v : Word) (rest : List HostStmt), s.program = .poll addr mask v :: rest →
    ((addr < s.params.engineBase ∨ s.params.engineBase + 0x3F < addr ∨ (addr - s.params.engineBase) % 4 ≠ 0) →
      ∃ r, hostStep s = .refused r) ∧
    ((s.params.engineBase ≤ addr ∧ addr ≤ s.params.engineBase + 0x3F ∧ (addr - s.params.engineBase) % 4 = 0) →
      ∃ t, hostStep s = .next t)) ∧
  ∀ (s : State) (addr width : Nat) (rest : List HostStmt) (v : Word),
    ((width ≠ 4 ∨ addr < s.params.engineBase ∨ s.params.engineBase + 0x3F < addr ∨
        (addr - s.params.engineBase) % 4 ≠ 0) →
      (s.program = .read addr width :: rest → ∃ r, hostStep s = .refused r) ∧
      (s.program = .write addr width v :: rest → ∃ r, hostStep s = .refused r)) ∧
    ((width = 4 ∧ s.params.engineBase ≤ addr ∧ addr ≤ s.params.engineBase + 0x3F ∧
        (addr - s.params.engineBase) % 4 = 0) →
      (s.program = .read addr width :: rest → ∃ t, hostStep s = .next t) ∧
      (s.program = .write addr width v :: rest → ∃ t, hostStep s = .next t))

/-- 42_protocol.md R134, R135, 00_scope.md R5, 20_memory.md R42 and 60_exceptions.md R159: which parameter sets
the model gives a meaning to.  That a misaligned ENGINE_BASE is refused is log 10, that the durations are whole
numbers is log 28. -/
def Obligations.LegalParametersMeetConstraints : Prop :=
  ∀ p : Params, legalParams p = true ↔
    (1 ≤ p.maxLeds ∧ p.maxLeds ≤ 2 ^ 32 - 1 ∧ p.engineBase % 64 = 0) ∧
    (0 < p.t0h ∧ 0 < p.t0l ∧ 0 < p.t1h ∧ 0 < p.t1l ∧ 0 < p.tTol ∧ 0 < p.tRes) ∧
    (p.t1l < p.t1h ∧ p.t0h < p.t1h ∧ p.t0h < p.t0l) ∧
    p.t0h + p.t0l = p.t1h + p.t1l ∧
    max p.t0l p.t1l + p.tTol < 1000 * p.tRes ∧
    (p.t0h : Int) + p.tTol < (p.t1h : Int) - p.tTol

/-- 30_encoding.md R70 (one read a turn is log 21): `poll` reads, and is done when the masked value is the one
asked for; otherwise it stands at the head of the program again, so that engine steps can come between. -/
def Obligations.PollRepeatsUntilEqual : Prop :=
  ∀ (s : State) (off : Nat) (mask v : Word) (rest : List HostStmt), off < 0x40 → off % 4 = 0 →
    s.program = .poll (s.params.engineBase + off) mask v :: rest →
    (s.readWindow off &&& mask = v → hostStep s = .next
      { s with program := rest, readLog := s.readLog ++ [⟨off, s.readWindow off⟩] }) ∧
    (s.readWindow off &&& mask ≠ v → hostStep s = .next
      { s with readLog := s.readLog ++ [⟨off, s.readWindow off⟩] })

/-! The step -/

/-- A step runs the command written (20_memory.md R49, 30_encoding.md R64; turns and the HOST's program are log 3
and log 4): when the HOST's turn has come and
its next access writes a word to CMD, the step is `exec` of the command the word spells, on the state from
which that turn and that access are taken; a word that spells none is rejected ILLEGAL. -/
def Obligations.StepRunsWrittenCommand : Prop :=
  ∀ (s : State) (w : Word) (rest : List HostStmt), legalParams s.params = true →
    s.program = .write s.params.engineBase 4 w :: rest →
    (∀ turns i, s.schedule = .host :: turns → decode w = .ok i →
      step s = exec i { s with schedule := turns, program := rest }) ∧
    (∀ turns e, s.schedule = .host :: turns → decode w = .error e →
      step s = .next { s with schedule := turns, program := rest, err := .illegal }) ∧
    (∀ i, s.schedule = [] → IdleOrGen s → decode w = .ok i → step s = exec i { s with program := rest })

/-- The state made by `withFetchWord` runs the word's command on the state it was made from (log 4). -/
def Obligations.FetchWordRunsNext : Prop :=
  ∀ (s : State) (nbits w : Nat) (i : Instr), legalParams s.params = true → decodeTableWord nbits w = some i →
    step (s.withFetchWord nbits w) = exec i s

/-- The power-on state meets the invariant, whatever the parameters (10_state.md R35). -/
def Obligations.PowerOnMeetsInvariant : Prop := ∀ p : Params, Inv (State.powerOn p)

/-- Every step keeps the invariant: colours in range (10_state.md R21), a buffer of LENGTH pixels (R20), GINDEX
and the cursor within the frame (R27, R29), the pin driven and low between symbols exactly while a strip
exists (R22, R103), RESULT's top byte 0 (R18). -/
def Obligations.StepKeepsInvariant : Prop := ∀ s t : State, Inv s → step s = .next t → Inv t

/-- From a state that meets the invariant, a step never faults (log 12: the one fault is unreachable). -/
def Obligations.InvariantExcludesFault : Prop := ∀ (s : State) (r : Fault), Inv s → step s ≠ .fault r

/-- 10_state.md R23 (turns are log 3): STATE changes only as the table says.  EACH and REST leave IDLE, REST with
OPND0; the last GPUT leaves GEN; the engine's turns leave TX and the two phases of REST; a reset gives IDLE.
In IDLE and GEN the engine has no step (R15), and its turn changes nothing but the turn used (log 6). -/
def Obligations.StateChangesAsListed : Prop :=
  ∀ s t : State, step s = .next t →
    (turnOf s = .reset → t.phase = .idle) ∧
    (turnOf s = .host → t.phase = stateAfterHost s.length s.opnd0 (hostCommand s) s.phase) ∧
    (turnOf s = .engine → t.phase = stateAfterEngine s.length s.phase ∧
      (IdleOrGen s → t = { s with schedule := s.schedule.tail }))

/-- 10_state.md R19, R22 and 41_strip.md R103 (turns are log 3): once a strip is constructed, only the reset
input changes LENGTH or releases the pin.  That no step writes the parameters is 00_scope.md R5 as log 1 reads
it. -/
def Obligations.StripHoldsUntilReset : Prop :=
  ∀ s t : State, Inv s → step s = .next t →
    t.params = s.params ∧
    (s.length ≠ 0#32 → turnOf s ≠ .reset →
      t.length = s.length ∧ t.pin = .driven false ∧ t.buf.length = s.buf.length)

/-- 10_state.md R16 to R20, R25: the engine's turn leaves C0..C7, OPND0..2, RESULT, LENGTH, the buffer and ERR; a
word written to CMD leaves OPND0..2, changes RESULT only as a CREAD, and a colour register only as the command's
destination. -/
def Obligations.RegisterWriters : Prop :=
  ∀ s t : State,
    (engineStep s = .next t → t.cregs = s.cregs ∧ t.opnd0 = s.opnd0 ∧ t.opnd1 = s.opnd1 ∧ t.opnd2 = s.opnd2 ∧
      t.result = s.result ∧ t.length = s.length ∧ t.buf = s.buf ∧ t.err = s.err) ∧
    (∀ w, execWord w s = .next t →
      (t.opnd0 = s.opnd0 ∧ t.opnd1 = s.opnd1 ∧ t.opnd2 = s.opnd2) ∧
      (t.result ≠ s.result → ∃ ca, decode w = .ok (.cread ca)) ∧
      (∀ r : Fin 8, t.cregs[r] ≠ s.cregs[r] →
        ∃ i cd, decode w = .ok i ∧ destination i = some cd ∧ (cd.extractLsb' 0 3).toFin = r))

/-- 10_state.md R32: the wire trace only grows, at most one symbol a step. -/
def Obligations.WireTraceOnlyGrows : Prop :=
  ∀ s t : State, step s = .next t → t.wire = s.wire ∨ ∃ sym, t.wire = s.wire ++ [sym]

/-! Frames -/

/-- 42_protocol.md R140: during a transmission no turn of the HOST touches the wire, the buffer, the cursor or
the pin; every command but CLRERR is rejected, and CLRERR touches only ERR. -/
def Obligations.TransmissionIsNotPreempted : Prop :=
  ∀ (s t : State) (p : Nat), s.phase = .tx p →
    (hostStep s = .next t →
      t.phase = .tx p ∧ t.buf = s.buf ∧ t.length = s.length ∧ t.wire = s.wire ∧ t.pin = s.pin ∧
      t.wireDirty = s.wireDirty ∧ t.cregs = s.cregs ∧ t.result = s.result) ∧
    (∀ i, i ≠ .clrerr → exec i s = .next { s with err := .state }) ∧
    exec .clrerr s = .next { s with err := .none }

/-- 42_protocol.md R141: the transmit step. -/
def Obligations.TransmitStepSendsNextBit : Prop :=
  ∀ (s : State) (p : Nat), Inv s → s.phase = .tx p →
    ∃ b, (frameBits s.params.channelOrder s.buf)[p]? = some b ∧
      ∃ t, engineStep s = .next t ∧ t.wire = s.wire ++ [.bit b] ∧ t.wireDirty = true ∧ t.pin = .driven false ∧
        t.phase = (if p + 1 = 24 * s.length.toNat then .idle else .tx (p + 1)) ∧
        t = { s with wire := t.wire, wireDirty := t.wireDirty, phase := t.phase, undelimited := t.undelimited }

/-- 42_protocol.md R144 (the form of the mark is log 9): the transmit step marks a frame when it sends its first
bit with wire_dirty set, reporting nothing, and otherwise adds no mark.  The mark of a frame that a reset cuts is
in ResetInputRestores. -/
def Obligations.UndelimitedFramesAreMarked : Prop :=
  ∀ (s t : State) (p : Nat), s.phase = .tx p → engineStep s = .next t →
    (p = 0 → s.wireDirty = true → t.undelimited = s.undelimited ++ [s.wire.length] ∧ t.err = s.err) ∧
    ((p ≠ 0 ∨ s.wireDirty = false) → t.undelimited = s.undelimited)

/-- 42_protocol.md R127, R130, R131, R132: bit `24 * p + 8 * j + k` of a frame is bit `7 - k` of the byte of
the j-th channel of CHANNEL_ORDER of pixel `p`, and there are no others. -/
def Obligations.FrameBitsLayout : Prop :=
  (∀ (order : ChannelOrder) (buf : List Colour), (frameBits order buf).length = 24 * buf.length) ∧
  (∀ (order : ChannelOrder) (buf : List Colour) (p j k : Nat) (c : Colour) (ch : Channel),
    buf[p]? = some c → (channelSequence order)[j]? = some ch → k < 8 →
    (frameBits order buf)[24 * p + 8 * j + k]? = some ((q8 (channelValue c ch)).getLsbD (7 - k))) ∧
  (channelSequence .rgb = [.red, .green, .blue] ∧ channelSequence .rbg = [.red, .blue, .green] ∧
    channelSequence .grb = [.green, .red, .blue] ∧ channelSequence .gbr = [.green, .blue, .red] ∧
    channelSequence .brg = [.blue, .red, .green] ∧ channelSequence .bgr = [.blue, .green, .red])

/-- 42_protocol.md R127, R137, R141 and 41_strip.md R107: left to itself (no order of turns given, log 3), a
transmission sends exactly the frame's bits, in order, one a step, and ends in IDLE after 24 * LENGTH of them.
wire_dirty is set, the frame is marked when it was set before (R144, in the form of log 9), and all else is as it
was. -/
def Obligations.WholeFrameReachesTheWire : Prop :=
  ∀ s : State, Inv s → legalParams s.params = true → s.phase = .tx 0 → s.schedule = [] →
    (∀ k, k < 24 * s.length.toNat → ∃ t, core.run k s = .next t ∧ t.phase = .tx k ∧
      t.wire = s.wire ++ ((frameBits s.params.channelOrder s.buf).take k).map Symbol.bit) ∧
    core.run (24 * s.length.toNat) s = .next
      { s with
        phase := .idle
        wire := s.wire ++ (frameBits s.params.channelOrder s.buf).map Symbol.bit
        wireDirty := true
        undelimited := if s.wireDirty then s.undelimited ++ [s.wire.length] else s.undelimited }

/-- 42_protocol.md R125, R133: the pulse shapes of the two bits and of the latch, each bit's parts within T_TOL
(R136); ENABLE drives the line low, and RELEASE drives nothing (neither has a duration: log 29).  A frame is its
bits' shapes with no gap (R137); it lasts 24 * LENGTH bit periods whatever its colours (R139, nominal durations)
and ends low (R126). -/
def Obligations.FrameDurationIsFixed : Prop :=
  (∀ p : Params,
    symbolParts p (.bit true) = [⟨true, .within p.t1h p.tTol⟩, ⟨false, .within p.t1l p.tTol⟩] ∧
    symbolParts p (.bit false) = [⟨true, .within p.t0h p.tTol⟩, ⟨false, .within p.t0l p.tTol⟩] ∧
    (∀ us, symbolParts p (.reset us) = [⟨false, .atLeast (1000 * (us.toNat + p.tRes))⟩]) ∧
    (∃ time, symbolParts p .enable = [⟨false, time⟩]) ∧ symbolParts p .release = []) ∧
  ∀ (p : Params) (buf : List Colour), legalParams p = true →
    let parts := waveform p ((frameBits p.channelOrder buf).map Symbol.bit)
    parts = (frameBits p.channelOrder buf).flatMap (fun b => symbolParts p (.bit b)) ∧
    wireNs parts = 24 * buf.length * bitPeriod p ∧
    (∀ part ∈ parts, ∃ ns, part.time = .within ns p.tTol) ∧
    (∀ part, parts.getLast? = some part → part.level = false)

/-- 41_strip.md R105, R109, R110: in GEN the engine has no step of its own (its turn is a next state that changes
nothing, log 6); no word written to CMD but a GPUT changes STATE, the index, the buffer, LENGTH, the wire or the
pin; and GPUT stores at the index asked for. -/
def Obligations.GeneratorPhaseAdvancesByGput : Prop :=
  ∀ (s : State) (i : Word), s.phase = .gen i →
    engineStep s = .next s ∧
    (∀ w t, (∀ ca, decode w ≠ .ok (.gput ca)) → execWord w s = .next t →
      t.phase = .gen i ∧ t.buf = s.buf ∧ t.length = s.length ∧ t.wire = s.wire ∧ t.pin = s.pin) ∧
    (∀ w ca t, decode w = .ok (.gput ca) → execWord w s = .next t → t.buf = s.buf.set i.toNat (cregOf s ca))

/-- 41_strip.md R108: from EACH on, whatever the HOST writes before each GPUT, the engine asks for the pixels 0,
1, ..., LENGTH - 1 in that order, one a GPUT; after the last GPUT every pixel holds the colour given for it,
and the transmission begins. -/
def Obligations.GeneratorCallLaw : Prop :=
  ∀ (s : State) (answers : List (List (Nat × Word) × BitVec 4)), Inv s → s.phase = .idle → s.length ≠ 0#32 →
    answers.length = s.length.toNat →
    (∀ a ∈ answers, (∀ x ∈ a.1, Prepares x) ∧ a.2.msb = false) →
    (∀ k, k < s.length.toNat → ∃ t,
      writes ((0x00, 0x21000000#32) :: (answers.take k).flatMap answerWrites) s = .next t ∧
      t.phase = .gen (BitVec.ofNat 32 k)) ∧
    ∃ t, writes ((0x00, 0x21000000#32) :: answers.flatMap answerWrites) s = .next t ∧
      t.phase = .tx 0 ∧ t.buf = givenColours answers { s with phase := .gen 0#32 } ∧ t.wire = s.wire ∧
      t.length = s.length

/-- 70_reset_and_hazards.md R181: every operation of the engine ends under the model's fair order (log 3): a
transmission after exactly the bits it has left, a rest after two steps, its latch phase after one; a rest has
then put the one RESET of its request on the wire and changed nothing else. -/
def Obligations.BusyPhasesEnd : Prop :=
  ∀ s : State, Inv s → legalParams s.params = true → s.schedule = [] →
    (∀ p, s.phase = .tx p → ∃ t, core.run (24 * s.length.toNat - p) s = .next t ∧ t.phase = .idle ∧
      t.buf = s.buf ∧ t.length = s.length) ∧
    (∀ us, s.phase = .restDelay us → core.run 2 s = .next
      { s with wire := s.wire ++ [.reset us], wireDirty := false, phase := .idle }) ∧
    ∀ us, s.phase = .restLatch us → core.run 1 s = .next
      { s with wire := s.wire ++ [.reset us], wireDirty := false, phase := .idle }

/-! Reset -/

/-- 70_reset_and_hazards.md R171, R172 with 10_state.md R32, R35: the reset input gives every piece of the
engine's state its reset value in any STATE, keeps the trace and adds RELEASE exactly when the pin was driven;
a second reset changes nothing.  It marks a frame that it cuts in TX, unless that frame is marked already, and no
other (log 9).  What it keeps of the model's own fields is log 23, its turn is log 3. -/
def Obligations.ResetInputRestores : Prop :=
  ∀ (s : State) (turns : List Turn), legalParams s.params = true → s.schedule = .reset :: turns →
    ∃ t, step s = .next t ∧
      t.cregs = Vector.replicate 8 ⟨0, 0, 0⟩ ∧ t.opnd0 = 0#32 ∧ t.opnd1 = 0#32 ∧ t.opnd2 = 0#32 ∧
      t.result = 0#32 ∧ t.length = 0#32 ∧ t.buf = [] ∧ t.phase = .idle ∧ t.err = .none ∧ t.gindex = 0#32 ∧
      t.status = 0#32 ∧ t.pin = .released ∧ t.wireDirty = false ∧
      (s.pin = .released → t.wire = s.wire) ∧
      (∀ level, s.pin = .driven level → t.wire = s.wire ++ [.release]) ∧
      ((∀ p, s.phase ≠ .tx p) → t.undelimited = s.undelimited) ∧
      (∀ p, s.phase = .tx p → s.wire.length - p ∈ s.undelimited → t.undelimited = s.undelimited) ∧
      (∀ p, s.phase = .tx p → s.wire.length - p ∉ s.undelimited →
        t.undelimited = s.undelimited ++ [s.wire.length - p]) ∧
      (t.params = s.params ∧ t.program = s.program ∧ t.readLog = s.readLog ∧ t.schedule = turns) ∧
      t.resetInput = t
end

