-- ==== Sys2Proof/Laws/Decode.lean ====
section
/-! SUPPORT. The fields of an assembled word, and what the decoder does on it. -/

namespace Sys2Proof

theorem opcodeField_assembleFields (op : Byte) (cd ca cb : BitVec 4) (imm : BitVec 12) :
    opcodeField (assembleFields op cd ca cb imm) = op := by
  apply BitVec.eq_of_getLsbD_eq
  intro j hj
  simp only [opcodeField, assembleFields, BitVec.getLsbD_extractLsb', BitVec.getLsbD_append]
  have h : ¬ (24 + j < 12) ∧ ¬ (24 + j - 12 < 4) ∧ ¬ (24 + j - 12 - 4 < 4) ∧ ¬ (24 + j - 12 - 4 - 4 < 4) := by omega
  simp [h, hj, show 24 + j - 12 - 4 - 4 - 4 = j by omega]

theorem cdField_assembleFields (op : Byte) (cd ca cb : BitVec 4) (imm : BitVec 12) :
    cdField (assembleFields op cd ca cb imm) = cd := by
  apply BitVec.eq_of_getLsbD_eq
  intro j hj
  simp only [cdField, assembleFields, BitVec.getLsbD_extractLsb', BitVec.getLsbD_append]
  have h : ¬ (20 + j < 12) ∧ ¬ (20 + j - 12 < 4) ∧ ¬ (20 + j - 12 - 4 < 4) ∧ (20 + j - 12 - 4 - 4 < 4) := by omega
  simp [h, hj, show 20 + j - 12 - 4 - 4 = j by omega]

theorem caField_assembleFields (op : Byte) (cd ca cb : BitVec 4) (imm : BitVec 12) :
    caField (assembleFields op cd ca cb imm) = ca := by
  apply BitVec.eq_of_getLsbD_eq
  intro j hj
  simp only [caField, assembleFields, BitVec.getLsbD_extractLsb', BitVec.getLsbD_append]
  have h : ¬ (16 + j < 12) ∧ ¬ (16 + j - 12 < 4) ∧ (16 + j - 12 - 4 < 4) := by omega
  simp [h, hj, show 16 + j - 12 - 4 = j by omega]

theorem cbField_assembleFields (op : Byte) (cd ca cb : BitVec 4) (imm : BitVec 12) :
    cbField (assembleFields op cd ca cb imm) = cb := by
  apply BitVec.eq_of_getLsbD_eq
  intro j hj
  simp only [cbField, assembleFields, BitVec.getLsbD_extractLsb', BitVec.getLsbD_append]
  have h : ¬ (12 + j < 12) ∧ (12 + j - 12 < 4) := by omega
  simp [hj]

theorem immField_assembleFields (op : Byte) (cd ca cb : BitVec 4) (imm : BitVec 12) :
    immField (assembleFields op cd ca cb imm) = imm := by
  apply BitVec.eq_of_getLsbD_eq
  intro j hj
  simp only [immField, assembleFields, BitVec.getLsbD_extractLsb', BitVec.getLsbD_append]
  simp [hj]

/-- A word is its five fields (30_encoding.md R59). -/
theorem assembleFields_of_fields (w : Word) :
    assembleFields (opcodeField w) (cdField w) (caField w) (cbField w) (immField w) = w := by
  apply BitVec.eq_of_getLsbD_eq
  intro j hj
  simp only [assembleFields, opcodeField, cdField, caField, cbField, immField, BitVec.getLsbD_append,
    BitVec.getLsbD_extractLsb']
  interval_cases j <;> simp

theorem assembleFields_and (o o' : Byte) (d d' a a' b b' : BitVec 4) (m m' : BitVec 12) :
    assembleFields o d a b m &&& assembleFields o' d' a' b' m' =
      assembleFields (o &&& o') (d &&& d') (a &&& a') (b &&& b') (m &&& m') := by
  apply BitVec.eq_of_getLsbD_eq
  intro j _
  simp only [assembleFields, BitVec.getLsbD_and, BitVec.getLsbD_append]
  split_ifs <;> rfl

theorem assembleFields_inj (o o' : Byte) (d d' a a' b b' : BitVec 4) (m m' : BitVec 12) :
    assembleFields o d a b m = assembleFields o' d' a' b' m' ↔
      o = o' ∧ d = d' ∧ a = a' ∧ b = b' ∧ m = m' := by
  constructor
  · intro h
    refine ⟨?_, ?_, ?_, ?_, ?_⟩
    · simpa only [opcodeField_assembleFields] using congrArg opcodeField h
    · simpa only [cdField_assembleFields] using congrArg cdField h
    · simpa only [caField_assembleFields] using congrArg caField h
    · simpa only [cbField_assembleFields] using congrArg cbField h
    · simpa only [immField_assembleFields] using congrArg immField h
  · rintro ⟨rfl, rfl, rfl, rfl, rfl⟩
    rfl

/-- The fields of a word added up at their places, as the table of 30_encoding.md R69 writes them. -/
theorem assembleFields_eq_sum (o : Byte) (d a b : BitVec 4) (m : BitVec 12) :
    assembleFields o d a b m =
      (o.setWidth 32 <<< 24 + d.setWidth 32 <<< 20 + a.setWidth 32 <<< 16 + b.setWidth 32 <<< 12 +
        m.setWidth 32 : BitVec 32) := by
  apply BitVec.eq_of_toNat_eq
  have ho := o.isLt
  have hd := d.isLt
  have ha := a.isLt
  have hb := b.isLt
  have hm := m.isLt
  have join : ∀ n x y : Nat, y < 2 ^ n → x <<< n ||| y = x * 2 ^ n + y := fun n x y h => by
    rw [← Nat.shiftLeft_add_eq_or_of_lt h, Nat.shiftLeft_eq]
  simp only [assembleFields, BitVec.toNat_append]
  rw [join _ _ _ hm, join _ _ _ hb, join _ _ _ ha, join _ _ _ hd]
  simp only [BitVec.toNat_add, BitVec.toNat_shiftLeft, BitVec.toNat_setWidth, Nat.shiftLeft_eq]
  omega

/-- A row matches a word exactly when it matches it field by field. -/
theorem matches_iff_fields (row : OpcodeRow) (w : Word) :
    row.matches w = true ↔
      opcodeField w &&& opcodeField row.mask = opcodeField row.pattern ∧
      cdField w &&& cdField row.mask = cdField row.pattern ∧
      caField w &&& caField row.mask = caField row.pattern ∧
      cbField w &&& cbField row.mask = cbField row.pattern ∧
      immField w &&& immField row.mask = immField row.pattern := by
  rw [OpcodeRow.matches, beq_iff_eq]
  conv_lhs =>
    rw [← assembleFields_of_fields w, ← assembleFields_of_fields row.mask, ← assembleFields_of_fields row.pattern,
      assembleFields_and, assembleFields_inj]

/-- The field masks of the table: every bit, the top bit of a register field, bits 11:3 of the immediate. -/
theorem byte_and_ones (x : Byte) : x &&& 0xFF#8 = x := by
  simpa using BitVec.and_allOnes (x := x)

theorem reg_and_ones (x : BitVec 4) : x &&& 0xF#4 = x := by
  simpa using BitVec.and_allOnes (x := x)

theorem imm_and_ones (x : BitVec 12) : x &&& 0xFFF#12 = x := by
  simpa using BitVec.and_allOnes (x := x)

theorem reg_and_top (x : BitVec 4) : x &&& 0x8#4 = 0#4 ↔ regFieldOk x = true := by
  revert x; decide

theorem imm_and_top (x : BitVec 12) : x &&& 0xFF8#12 = 0#12 ↔ palImmOk x = true := by
  revert x; decide +kernel

/-- A row written by fields matches a word field by field. -/
theorem row_matches (o o' : Byte) (d a b d' a' b' : BitVec 4) (m m' : BitVec 12) (g : Word → Instr) (w : Word) :
    (OpcodeRow.mk (assembleFields o d a b m) (assembleFields o' d' a' b' m') g).matches w = true ↔
      opcodeField w &&& o' = o ∧ cdField w &&& d' = d ∧ caField w &&& a' = a ∧ cbField w &&& b' = b ∧
        immField w &&& m' = m := by
  rw [matches_iff_fields]
  simp only [opcodeField_assembleFields, cdField_assembleFields, caField_assembleFields,
    cbField_assembleFields, immField_assembleFields]

theorem find_row {row : OpcodeRow} {rows : List OpcodeRow} {w : Word} {P : Prop} [Decidable P]
    (h : row.matches w = true ↔ P) :
    (row :: rows).find? (fun r => r.matches w) = if P then some row else rows.find? (fun r => r.matches w) := by
  by_cases hP : P
  · rw [if_pos hP, List.find?_cons_of_pos (p := fun r : OpcodeRow => r.matches w) (h.2 hP)]
  · rw [if_neg hP, List.find?_cons_of_neg (p := fun r : OpcodeRow => r.matches w) (fun hm => hP (h.1 hm))]

theorem answer_ite {β : Type} {P : Prop} [Decidable P] {row : OpcodeRow} {found : Option OpcodeRow} {y z : β}
    (answer : Option OpcodeRow → β) (hy : answer (some row) = y) (hz : answer found = z) :
    answer (if P then some row else found) = if P then y else z := by
  split_ifs <;> assumption

/-- The decoder by fields: what each row of 30_encoding.md R63 asks of the five fields of R59. -/
theorem decode_by_fields (w : Word) :
    decode w =
      (let op := opcodeField w
       let d := cdField w
       let a := caField w
       let b := cbField w
       let m := immField w
       if op = 0x10#8 ∧ regFieldOk d = true ∧ a = 0#4 ∧ b = 0#4 ∧ m = 0#12 then .ok (.rgb d)
       else if op = 0x11#8 ∧ regFieldOk d = true ∧ a = 0#4 ∧ b = 0#4 ∧ palImmOk m = true then .ok (.pal d m)
       else if op = 0x12#8 ∧ regFieldOk d = true ∧ regFieldOk a = true ∧ regFieldOk b = true ∧ m = 0#12 then
         .ok (.mix d a b)
       else if op = 0x13#8 ∧ regFieldOk d = true ∧ regFieldOk a = true ∧ regFieldOk b = true ∧ m = 0#12 then
         .ok (.mixr d a b)
       else if op = 0x14#8 ∧ regFieldOk d = true ∧ regFieldOk a = true ∧ b = 0#4 ∧ m = 0#12 then .ok (.opac d a)
       else if op = 0x15#8 ∧ d = 0#4 ∧ regFieldOk a = true ∧ b = 0#4 ∧ m = 0#12 then .ok (.cread a)
       else if op = 0x20#8 ∧ d = 0#4 ∧ a = 0#4 ∧ b = 0#4 ∧ m = 0#12 then .ok .new
       else if op = 0x21#8 ∧ d = 0#4 ∧ a = 0#4 ∧ b = 0#4 ∧ m = 0#12 then .ok .each
       else if op = 0x22#8 ∧ d = 0#4 ∧ regFieldOk a = true ∧ b = 0#4 ∧ m = 0#12 then .ok (.gput a)
       else if op = 0x23#8 ∧ regFieldOk d = true ∧ a = 0#4 ∧ b = 0#4 ∧ m = 0#12 then .ok (.pget d)
       else if op = 0x24#8 ∧ d = 0#4 ∧ a = 0#4 ∧ b = 0#4 ∧ m = 0#12 then .ok .rest
       else if op = 0x3F#8 ∧ d = 0#4 ∧ a = 0#4 ∧ b = 0#4 ∧ m = 0#12 then .ok .clrerr
       else if opcodeListed w then .error .mustBeZero else .error .reservedOpcode) := by
  have key : ∀ (p q : Word) {o o' : Byte} {d a b d' a' b' : BitVec 4} {m m' : BitVec 12} {P : Prop}
      (g : Word → Instr), assembleFields o d a b m = p → assembleFields o' d' a' b' m' = q →
      ((opcodeField w &&& o' = o ∧ cdField w &&& d' = d ∧ caField w &&& a' = a ∧ cbField w &&& b' = b ∧
        immField w &&& m' = m) ↔ P) →
      ((OpcodeRow.mk p q g).matches w = true ↔ P) := by
    rintro _ _ _ _ _ _ _ _ _ _ _ _ _ g rfl rfl h
    exact (row_matches _ _ _ _ _ _ _ _ _ _ g w).trans h
  have plain : ∀ o : Byte, (opcodeField w &&& 0xFF#8 = o ∧ cdField w &&& 0xF#4 = 0#4 ∧
      caField w &&& 0xF#4 = 0#4 ∧ cbField w &&& 0xF#4 = 0#4 ∧ immField w &&& 0xFFF#12 = 0#12) ↔
      (opcodeField w = o ∧ cdField w = 0#4 ∧ caField w = 0#4 ∧ cbField w = 0#4 ∧ immField w = 0#12) := by
    simp only [byte_and_ones, reg_and_ones, imm_and_ones, implies_true, iff_self]
  have one_d : ∀ o : Byte, (opcodeField w &&& 0xFF#8 = o ∧ cdField w &&& 0x8#4 = 0#4 ∧
      caField w &&& 0xF#4 = 0#4 ∧ cbField w &&& 0xF#4 = 0#4 ∧ immField w &&& 0xFFF#12 = 0#12) ↔
      (opcodeField w = o ∧ regFieldOk (cdField w) = true ∧ caField w = 0#4 ∧ cbField w = 0#4 ∧
        immField w = 0#12) := by
    simp only [byte_and_ones, reg_and_ones, imm_and_ones, reg_and_top, implies_true, iff_self]
  have one_a : ∀ o : Byte, (opcodeField w &&& 0xFF#8 = o ∧ cdField w &&& 0xF#4 = 0#4 ∧
      caField w &&& 0x8#4 = 0#4 ∧ cbField w &&& 0xF#4 = 0#4 ∧ immField w &&& 0xFFF#12 = 0#12) ↔
      (opcodeField w = o ∧ cdField w = 0#4 ∧ regFieldOk (caField w) = true ∧ cbField w = 0#4 ∧
        immField w = 0#12) := by
    simp only [byte_and_ones, reg_and_ones, imm_and_ones, reg_and_top, implies_true, iff_self]
  have three : ∀ o : Byte, (opcodeField w &&& 0xFF#8 = o ∧ cdField w &&& 0x8#4 = 0#4 ∧
      caField w &&& 0x8#4 = 0#4 ∧ cbField w &&& 0x8#4 = 0#4 ∧ immField w &&& 0xFFF#12 = 0#12) ↔
      (opcodeField w = o ∧ regFieldOk (cdField w) = true ∧ regFieldOk (caField w) = true ∧
        regFieldOk (cbField w) = true ∧ immField w = 0#12) := by
    simp only [byte_and_ones, imm_and_ones, reg_and_top, implies_true, iff_self]
  have pal : (opcodeField w &&& 0xFF#8 = 0x11#8 ∧ cdField w &&& 0x8#4 = 0#4 ∧
      caField w &&& 0xF#4 = 0#4 ∧ cbField w &&& 0xF#4 = 0#4 ∧ immField w &&& 0xFF8#12 = 0#12) ↔
      (opcodeField w = 0x11#8 ∧ regFieldOk (cdField w) = true ∧ caField w = 0#4 ∧ cbField w = 0#4 ∧
        palImmOk (immField w) = true) := by
    simp only [byte_and_ones, reg_and_ones, reg_and_top, imm_and_top]
  have opac : (opcodeField w &&& 0xFF#8 = 0x14#8 ∧ cdField w &&& 0x8#4 = 0#4 ∧
      caField w &&& 0x8#4 = 0#4 ∧ cbField w &&& 0xF#4 = 0#4 ∧ immField w &&& 0xFFF#12 = 0#12) ↔
      (opcodeField w = 0x14#8 ∧ regFieldOk (cdField w) = true ∧ regFieldOk (caField w) = true ∧
        cbField w = 0#4 ∧ immField w = 0#12) := by
    simp only [byte_and_ones, reg_and_ones, imm_and_ones, reg_and_top]
  rw [decode, opcodeTable,
    find_row (key 0x10000000#32 0xFF8FFFFF#32 _ (by decide) (by decide) (one_d 0x10#8)),
    find_row (key 0x11000000#32 0xFF8FFFF8#32 _ (by decide) (by decide) pal),
    find_row (key 0x12000000#32 0xFF888FFF#32 _ (by decide) (by decide) (three 0x12#8)),
    find_row (key 0x13000000#32 0xFF888FFF#32 _ (by decide) (by decide) (three 0x13#8)),
    find_row (key 0x14000000#32 0xFF88FFFF#32 _ (by decide) (by decide) opac),
    find_row (key 0x15000000#32 0xFFF8FFFF#32 _ (by decide) (by decide) (one_a 0x15#8)),
    find_row (key 0x20000000#32 0xFFFFFFFF#32 _ (by decide) (by decide) (plain 0x20#8)),
    find_row (key 0x21000000#32 0xFFFFFFFF#32 _ (by decide) (by decide) (plain 0x21#8)),
    find_row (key 0x22000000#32 0xFFF8FFFF#32 _ (by decide) (by decide) (one_a 0x22#8)),
    find_row (key 0x23000000#32 0xFF8FFFFF#32 _ (by decide) (by decide) (one_d 0x23#8)),
    find_row (key 0x24000000#32 0xFFFFFFFF#32 _ (by decide) (by decide) (plain 0x24#8)),
    find_row (key 0x3F000000#32 0xFFFFFFFF#32 _ (by decide) (by decide) (plain 0x3F#8)),
    List.find?_nil]
  let answer : Option OpcodeRow → Except DecodeError Instr := fun found =>
    match found with
    | some row => .ok (row.build w)
    | none => if opcodeListed w then .error .mustBeZero else .error .reservedOpcode
  iterate 12 refine answer_ite answer rfl ?_
  rfl

end Sys2Proof
end

