-- ==== Sys2Proof/Laws/State.lean ====
section
/-! SUPPORT. One lemma per field per update of the state, each true by rfl, so that no later proof unfolds a
record update. -/

namespace Sys2Proof.Machine

variable (s : State)

@[simp] theorem setCreg_params (f : BitVec 4) (c : Colour) : (s.setCreg f c).params = s.params := rfl
@[simp] theorem setCreg_cregs (f : BitVec 4) (c : Colour) : (s.setCreg f c).cregs = s.cregs.set (regIndex f) c := rfl
@[simp] theorem setCreg_opnd0 (f : BitVec 4) (c : Colour) : (s.setCreg f c).opnd0 = s.opnd0 := rfl
@[simp] theorem setCreg_opnd1 (f : BitVec 4) (c : Colour) : (s.setCreg f c).opnd1 = s.opnd1 := rfl
@[simp] theorem setCreg_opnd2 (f : BitVec 4) (c : Colour) : (s.setCreg f c).opnd2 = s.opnd2 := rfl
@[simp] theorem setCreg_result (f : BitVec 4) (c : Colour) : (s.setCreg f c).result = s.result := rfl
@[simp] theorem setCreg_length (f : BitVec 4) (c : Colour) : (s.setCreg f c).length = s.length := rfl
@[simp] theorem setCreg_buf (f : BitVec 4) (c : Colour) : (s.setCreg f c).buf = s.buf := rfl
@[simp] theorem setCreg_phase (f : BitVec 4) (c : Colour) : (s.setCreg f c).phase = s.phase := rfl
@[simp] theorem setCreg_err (f : BitVec 4) (c : Colour) : (s.setCreg f c).err = s.err := rfl
@[simp] theorem setCreg_pin (f : BitVec 4) (c : Colour) : (s.setCreg f c).pin = s.pin := rfl
@[simp] theorem setCreg_wireDirty (f : BitVec 4) (c : Colour) : (s.setCreg f c).wireDirty = s.wireDirty := rfl
@[simp] theorem setCreg_wire (f : BitVec 4) (c : Colour) : (s.setCreg f c).wire = s.wire := rfl
@[simp] theorem setCreg_undelimited (f : BitVec 4) (c : Colour) : (s.setCreg f c).undelimited = s.undelimited := rfl
@[simp] theorem setCreg_readLog (f : BitVec 4) (c : Colour) : (s.setCreg f c).readLog = s.readLog := rfl
@[simp] theorem setCreg_program (f : BitVec 4) (c : Colour) : (s.setCreg f c).program = s.program := rfl
@[simp] theorem setCreg_schedule (f : BitVec 4) (c : Colour) : (s.setCreg f c).schedule = s.schedule := rfl

@[simp] theorem setPixel_params (i : Nat) (c : Colour) : (s.setPixel i c).params = s.params := rfl
@[simp] theorem setPixel_cregs (i : Nat) (c : Colour) : (s.setPixel i c).cregs = s.cregs := rfl
@[simp] theorem setPixel_opnd0 (i : Nat) (c : Colour) : (s.setPixel i c).opnd0 = s.opnd0 := rfl
@[simp] theorem setPixel_opnd1 (i : Nat) (c : Colour) : (s.setPixel i c).opnd1 = s.opnd1 := rfl
@[simp] theorem setPixel_opnd2 (i : Nat) (c : Colour) : (s.setPixel i c).opnd2 = s.opnd2 := rfl
@[simp] theorem setPixel_result (i : Nat) (c : Colour) : (s.setPixel i c).result = s.result := rfl
@[simp] theorem setPixel_length (i : Nat) (c : Colour) : (s.setPixel i c).length = s.length := rfl
@[simp] theorem setPixel_buf (i : Nat) (c : Colour) : (s.setPixel i c).buf = s.buf.set i c := rfl
@[simp] theorem setPixel_phase (i : Nat) (c : Colour) : (s.setPixel i c).phase = s.phase := rfl
@[simp] theorem setPixel_err (i : Nat) (c : Colour) : (s.setPixel i c).err = s.err := rfl
@[simp] theorem setPixel_pin (i : Nat) (c : Colour) : (s.setPixel i c).pin = s.pin := rfl
@[simp] theorem setPixel_wireDirty (i : Nat) (c : Colour) : (s.setPixel i c).wireDirty = s.wireDirty := rfl
@[simp] theorem setPixel_wire (i : Nat) (c : Colour) : (s.setPixel i c).wire = s.wire := rfl
@[simp] theorem setPixel_undelimited (i : Nat) (c : Colour) : (s.setPixel i c).undelimited = s.undelimited := rfl
@[simp] theorem setPixel_readLog (i : Nat) (c : Colour) : (s.setPixel i c).readLog = s.readLog := rfl
@[simp] theorem setPixel_program (i : Nat) (c : Colour) : (s.setPixel i c).program = s.program := rfl
@[simp] theorem setPixel_schedule (i : Nat) (c : Colour) : (s.setPixel i c).schedule = s.schedule := rfl

@[simp] theorem enter_params (p : Phase) : (s.enter p).params = s.params := rfl
@[simp] theorem enter_cregs (p : Phase) : (s.enter p).cregs = s.cregs := rfl
@[simp] theorem enter_opnd0 (p : Phase) : (s.enter p).opnd0 = s.opnd0 := rfl
@[simp] theorem enter_opnd1 (p : Phase) : (s.enter p).opnd1 = s.opnd1 := rfl
@[simp] theorem enter_opnd2 (p : Phase) : (s.enter p).opnd2 = s.opnd2 := rfl
@[simp] theorem enter_result (p : Phase) : (s.enter p).result = s.result := rfl
@[simp] theorem enter_length (p : Phase) : (s.enter p).length = s.length := rfl
@[simp] theorem enter_buf (p : Phase) : (s.enter p).buf = s.buf := rfl
@[simp] theorem enter_phase (p : Phase) : (s.enter p).phase = p := rfl
@[simp] theorem enter_err (p : Phase) : (s.enter p).err = s.err := rfl
@[simp] theorem enter_pin (p : Phase) : (s.enter p).pin = s.pin := rfl
@[simp] theorem enter_wireDirty (p : Phase) : (s.enter p).wireDirty = s.wireDirty := rfl
@[simp] theorem enter_wire (p : Phase) : (s.enter p).wire = s.wire := rfl
@[simp] theorem enter_undelimited (p : Phase) : (s.enter p).undelimited = s.undelimited := rfl
@[simp] theorem enter_readLog (p : Phase) : (s.enter p).readLog = s.readLog := rfl
@[simp] theorem enter_program (p : Phase) : (s.enter p).program = s.program := rfl
@[simp] theorem enter_schedule (p : Phase) : (s.enter p).schedule = s.schedule := rfl

@[simp] theorem reject_params (code : ErrCode) : (s.reject code).params = s.params := rfl
@[simp] theorem reject_cregs (code : ErrCode) : (s.reject code).cregs = s.cregs := rfl
@[simp] theorem reject_opnd0 (code : ErrCode) : (s.reject code).opnd0 = s.opnd0 := rfl
@[simp] theorem reject_opnd1 (code : ErrCode) : (s.reject code).opnd1 = s.opnd1 := rfl
@[simp] theorem reject_opnd2 (code : ErrCode) : (s.reject code).opnd2 = s.opnd2 := rfl
@[simp] theorem reject_result (code : ErrCode) : (s.reject code).result = s.result := rfl
@[simp] theorem reject_length (code : ErrCode) : (s.reject code).length = s.length := rfl
@[simp] theorem reject_buf (code : ErrCode) : (s.reject code).buf = s.buf := rfl
@[simp] theorem reject_phase (code : ErrCode) : (s.reject code).phase = s.phase := rfl
@[simp] theorem reject_err (code : ErrCode) : (s.reject code).err = code := rfl
@[simp] theorem reject_pin (code : ErrCode) : (s.reject code).pin = s.pin := rfl
@[simp] theorem reject_wireDirty (code : ErrCode) : (s.reject code).wireDirty = s.wireDirty := rfl
@[simp] theorem reject_wire (code : ErrCode) : (s.reject code).wire = s.wire := rfl
@[simp] theorem reject_undelimited (code : ErrCode) : (s.reject code).undelimited = s.undelimited := rfl
@[simp] theorem reject_readLog (code : ErrCode) : (s.reject code).readLog = s.readLog := rfl
@[simp] theorem reject_program (code : ErrCode) : (s.reject code).program = s.program := rfl
@[simp] theorem reject_schedule (code : ErrCode) : (s.reject code).schedule = s.schedule := rfl

@[simp] theorem clearError_params : (s.clearError).params = s.params := rfl
@[simp] theorem clearError_cregs : (s.clearError).cregs = s.cregs := rfl
@[simp] theorem clearError_opnd0 : (s.clearError).opnd0 = s.opnd0 := rfl
@[simp] theorem clearError_opnd1 : (s.clearError).opnd1 = s.opnd1 := rfl
@[simp] theorem clearError_opnd2 : (s.clearError).opnd2 = s.opnd2 := rfl
@[simp] theorem clearError_result : (s.clearError).result = s.result := rfl
@[simp] theorem clearError_length : (s.clearError).length = s.length := rfl
@[simp] theorem clearError_buf : (s.clearError).buf = s.buf := rfl
@[simp] theorem clearError_phase : (s.clearError).phase = s.phase := rfl
@[simp] theorem clearError_err : (s.clearError).err = .none := rfl
@[simp] theorem clearError_pin : (s.clearError).pin = s.pin := rfl
@[simp] theorem clearError_wireDirty : (s.clearError).wireDirty = s.wireDirty := rfl
@[simp] theorem clearError_wire : (s.clearError).wire = s.wire := rfl
@[simp] theorem clearError_undelimited : (s.clearError).undelimited = s.undelimited := rfl
@[simp] theorem clearError_readLog : (s.clearError).readLog = s.readLog := rfl
@[simp] theorem clearError_program : (s.clearError).program = s.program := rfl
@[simp] theorem clearError_schedule : (s.clearError).schedule = s.schedule := rfl

@[simp] theorem construct_params : (s.construct).params = s.params := rfl
@[simp] theorem construct_cregs : (s.construct).cregs = s.cregs := rfl
@[simp] theorem construct_opnd0 : (s.construct).opnd0 = s.opnd0 := rfl
@[simp] theorem construct_opnd1 : (s.construct).opnd1 = s.opnd1 := rfl
@[simp] theorem construct_opnd2 : (s.construct).opnd2 = s.opnd2 := rfl
@[simp] theorem construct_result : (s.construct).result = s.result := rfl
@[simp] theorem construct_length : (s.construct).length = s.opnd0 := rfl
@[simp] theorem construct_buf : (s.construct).buf = List.replicate s.opnd0.toNat Colour.black := rfl
@[simp] theorem construct_phase : (s.construct).phase = s.phase := rfl
@[simp] theorem construct_err : (s.construct).err = s.err := rfl
@[simp] theorem construct_pin : (s.construct).pin = .driven false := rfl
@[simp] theorem construct_wireDirty : (s.construct).wireDirty = false := rfl
@[simp] theorem construct_wire : (s.construct).wire = s.wire ++ [.enable] := rfl
@[simp] theorem construct_undelimited : (s.construct).undelimited = s.undelimited := rfl
@[simp] theorem construct_readLog : (s.construct).readLog = s.readLog := rfl
@[simp] theorem construct_program : (s.construct).program = s.program := rfl
@[simp] theorem construct_schedule : (s.construct).schedule = s.schedule := rfl

@[simp] theorem delayStep_params (us : Word) : (delayStep us s).params = s.params := rfl
@[simp] theorem delayStep_cregs (us : Word) : (delayStep us s).cregs = s.cregs := rfl
@[simp] theorem delayStep_opnd0 (us : Word) : (delayStep us s).opnd0 = s.opnd0 := rfl
@[simp] theorem delayStep_opnd1 (us : Word) : (delayStep us s).opnd1 = s.opnd1 := rfl
@[simp] theorem delayStep_opnd2 (us : Word) : (delayStep us s).opnd2 = s.opnd2 := rfl
@[simp] theorem delayStep_result (us : Word) : (delayStep us s).result = s.result := rfl
@[simp] theorem delayStep_length (us : Word) : (delayStep us s).length = s.length := rfl
@[simp] theorem delayStep_buf (us : Word) : (delayStep us s).buf = s.buf := rfl
@[simp] theorem delayStep_phase (us : Word) : (delayStep us s).phase = .restLatch us := rfl
@[simp] theorem delayStep_err (us : Word) : (delayStep us s).err = s.err := rfl
@[simp] theorem delayStep_pin (us : Word) : (delayStep us s).pin = s.pin := rfl
@[simp] theorem delayStep_wireDirty (us : Word) : (delayStep us s).wireDirty = s.wireDirty := rfl
@[simp] theorem delayStep_wire (us : Word) : (delayStep us s).wire = s.wire := rfl
@[simp] theorem delayStep_undelimited (us : Word) : (delayStep us s).undelimited = s.undelimited := rfl
@[simp] theorem delayStep_readLog (us : Word) : (delayStep us s).readLog = s.readLog := rfl
@[simp] theorem delayStep_program (us : Word) : (delayStep us s).program = s.program := rfl
@[simp] theorem delayStep_schedule (us : Word) : (delayStep us s).schedule = s.schedule := rfl

@[simp] theorem latchStep_params (us : Word) : (latchStep us s).params = s.params := rfl
@[simp] theorem latchStep_cregs (us : Word) : (latchStep us s).cregs = s.cregs := rfl
@[simp] theorem latchStep_opnd0 (us : Word) : (latchStep us s).opnd0 = s.opnd0 := rfl
@[simp] theorem latchStep_opnd1 (us : Word) : (latchStep us s).opnd1 = s.opnd1 := rfl
@[simp] theorem latchStep_opnd2 (us : Word) : (latchStep us s).opnd2 = s.opnd2 := rfl
@[simp] theorem latchStep_result (us : Word) : (latchStep us s).result = s.result := rfl
@[simp] theorem latchStep_length (us : Word) : (latchStep us s).length = s.length := rfl
@[simp] theorem latchStep_buf (us : Word) : (latchStep us s).buf = s.buf := rfl
@[simp] theorem latchStep_phase (us : Word) : (latchStep us s).phase = .idle := rfl
@[simp] theorem latchStep_err (us : Word) : (latchStep us s).err = s.err := rfl
@[simp] theorem latchStep_pin (us : Word) : (latchStep us s).pin = s.pin := rfl
@[simp] theorem latchStep_wireDirty (us : Word) : (latchStep us s).wireDirty = false := rfl
@[simp] theorem latchStep_wire (us : Word) : (latchStep us s).wire = s.wire ++ [.reset us] := rfl
@[simp] theorem latchStep_undelimited (us : Word) : (latchStep us s).undelimited = s.undelimited := rfl
@[simp] theorem latchStep_readLog (us : Word) : (latchStep us s).readLog = s.readLog := rfl
@[simp] theorem latchStep_program (us : Word) : (latchStep us s).program = s.program := rfl
@[simp] theorem latchStep_schedule (us : Word) : (latchStep us s).schedule = s.schedule := rfl

@[simp] theorem logRead_params (off : Nat) : (s.logRead off).params = s.params := rfl
@[simp] theorem logRead_cregs (off : Nat) : (s.logRead off).cregs = s.cregs := rfl
@[simp] theorem logRead_opnd0 (off : Nat) : (s.logRead off).opnd0 = s.opnd0 := rfl
@[simp] theorem logRead_opnd1 (off : Nat) : (s.logRead off).opnd1 = s.opnd1 := rfl
@[simp] theorem logRead_opnd2 (off : Nat) : (s.logRead off).opnd2 = s.opnd2 := rfl
@[simp] theorem logRead_result (off : Nat) : (s.logRead off).result = s.result := rfl
@[simp] theorem logRead_length (off : Nat) : (s.logRead off).length = s.length := rfl
@[simp] theorem logRead_buf (off : Nat) : (s.logRead off).buf = s.buf := rfl
@[simp] theorem logRead_phase (off : Nat) : (s.logRead off).phase = s.phase := rfl
@[simp] theorem logRead_err (off : Nat) : (s.logRead off).err = s.err := rfl
@[simp] theorem logRead_pin (off : Nat) : (s.logRead off).pin = s.pin := rfl
@[simp] theorem logRead_wireDirty (off : Nat) : (s.logRead off).wireDirty = s.wireDirty := rfl
@[simp] theorem logRead_wire (off : Nat) : (s.logRead off).wire = s.wire := rfl
@[simp] theorem logRead_undelimited (off : Nat) : (s.logRead off).undelimited = s.undelimited := rfl
@[simp] theorem logRead_readLog (off : Nat) : (s.logRead off).readLog = s.readLog ++ [⟨off, s.readWindow off⟩] := rfl
@[simp] theorem logRead_program (off : Nat) : (s.logRead off).program = s.program := rfl
@[simp] theorem logRead_schedule (off : Nat) : (s.logRead off).schedule = s.schedule := rfl

@[simp] theorem resetInput_params : (s.resetInput).params = s.params := rfl
@[simp] theorem resetInput_cregs : (s.resetInput).cregs = Vector.replicate 8 Colour.black := rfl
@[simp] theorem resetInput_opnd0 : (s.resetInput).opnd0 = 0#32 := rfl
@[simp] theorem resetInput_opnd1 : (s.resetInput).opnd1 = 0#32 := rfl
@[simp] theorem resetInput_opnd2 : (s.resetInput).opnd2 = 0#32 := rfl
@[simp] theorem resetInput_result : (s.resetInput).result = 0#32 := rfl
@[simp] theorem resetInput_length : (s.resetInput).length = 0#32 := rfl
@[simp] theorem resetInput_buf : (s.resetInput).buf = [] := rfl
@[simp] theorem resetInput_phase : (s.resetInput).phase = .idle := rfl
@[simp] theorem resetInput_err : (s.resetInput).err = .none := rfl
@[simp] theorem resetInput_pin : (s.resetInput).pin = .released := rfl
@[simp] theorem resetInput_wireDirty : (s.resetInput).wireDirty = false := rfl
@[simp] theorem resetInput_wire : (s.resetInput).wire = if s.pin = .released then s.wire else s.wire ++ [.release] := rfl
@[simp] theorem resetInput_undelimited : (s.resetInput).undelimited = s.undelimited ++ s.cutFrameMark := rfl
@[simp] theorem resetInput_readLog : (s.resetInput).readLog = s.readLog := rfl
@[simp] theorem resetInput_program : (s.resetInput).program = s.program := rfl
@[simp] theorem resetInput_schedule : (s.resetInput).schedule = s.schedule := rfl

end Sys2Proof.Machine
end

