-- ==== Sys2Proof/Laws/Ops.lean ====
section
/-! SUPPORT. The shared operations: what each can answer, said once. -/

namespace Sys2Proof.Machine

variable {s t : State}

theorem creg_setCreg (f g : BitVec 4) (c : Colour) :
    (s.setCreg f c).creg g = if regIndex f = regIndex g then c else s.creg g := by
  simp only [State.creg, State.setCreg, Fin.getElem_fin, Vector.getElem_set, Fin.val_inj]

theorem configured_iff : s.configured = true ↔ s.length ≠ 0#32 := by
  simp [State.configured]

theorem configured_eq_false_iff : s.configured = false ↔ s.length = 0#32 := by
  simp [State.configured]

theorem acceptsColour_iff {p : Phase} : p.acceptsColour = true ↔ p = .idle ∨ ∃ i, p = .gen i := by
  cases p <;> simp [Phase.acceptsColour]

theorem busy_iff {p : Phase} :
    p.busy = true ↔ (∃ n, p = .tx n) ∨ (∃ us, p = .restDelay us) ∨ ∃ us, p = .restLatch us := by
  cases p <;> simp [Phase.busy]

theorem busy_eq_not_acceptsColour (p : Phase) : p.busy = !p.acceptsColour := by
  cases p <;> rfl

/-- A colour command takes its effect in IDLE and GEN, and is rejected STATE otherwise. -/
theorem colourCommand_next {e : State} (h : colourCommand s e = .next t) :
    (s.phase.acceptsColour = true ∧ t = e) ∨ (s.phase.acceptsColour = false ∧ t = s.reject .state) := by
  unfold colourCommand at h
  split at h
  · exact .inl ⟨‹_›, by cases h; rfl⟩
  · exact .inr ⟨Bool.eq_false_iff.2 ‹_›, by cases h; rfl⟩

theorem colourCommand_of_accepts {e : State} (h : s.phase.acceptsColour = true) : colourCommand s e = .next e :=
  if_pos h

theorem colourCommand_of_not_accepts {e : State} (h : s.phase.acceptsColour = false) :
    colourCommand s e = .next (s.reject .state) := by
  simp [colourCommand, h]

/-- A strip command that needs IDLE and a strip: the two rejections, or its own part. -/
theorem idleStripCommand_next {k : Answer State} (h : idleStripCommand s k = .next t) :
    (s.phase ≠ .idle ∧ t = s.reject .state) ∨
      (s.phase = .idle ∧ s.length = 0#32 ∧ t = s.reject .nocfg) ∨
      (s.phase = .idle ∧ s.length ≠ 0#32 ∧ k = .next t) := by
  unfold idleStripCommand at h
  split at h
  · exact .inl ⟨‹_›, by cases h; rfl⟩
  · rename_i hp
    split at h
    · rename_i hc
      exact .inr (.inl ⟨not_not.1 hp, configured_eq_false_iff.1 hc, by cases h; rfl⟩)
    · rename_i hc
      exact .inr (.inr ⟨not_not.1 hp, configured_iff.1 (by simpa using hc), h⟩)

theorem idleStripCommand_of_ready {k : Answer State} (hp : s.phase = .idle) (hc : s.length ≠ 0#32) :
    idleStripCommand s k = k := by
  simp [idleStripCommand, hp, configured_iff.2 hc]

/-- After a pixel: the next request below LENGTH, else TX. -/
theorem afterPixel_cases (length i : Word) :
    (i.toNat + 1 < length.toNat ∧ afterPixel length i = .gen (i + 1#32)) ∨
      (length.toNat ≤ i.toNat + 1 ∧ afterPixel length i = .tx 0) := by
  unfold afterPixel
  split
  · exact .inl ⟨‹_›, rfl⟩
  · exact .inr ⟨by omega, rfl⟩

end Sys2Proof.Machine
end

