-- ==== Sys2Proof/Laws/Exec.lean ====
section
/-! SUPPORT. What each command can answer, one inversion lemma per command, and that every command answers a
next state: no command of this engine faults or is refused. -/

namespace Sys2Proof.Machine

variable {s t : State}

theorem execNew_next (h : execNew s = .next t) :
    (s.phase ≠ .idle ∧ t = s.reject .state) ∨ (s.phase = .idle ∧ t = s.reject .config) ∨
      (s.phase = .idle ∧ s.length = 0#32 ∧ s.opnd0 ≠ 0#32 ∧ s.opnd0.toNat ≤ s.params.maxLeds ∧
        t = s.construct) := by
  unfold execNew at h
  split at h
  · exact .inl ⟨‹_›, by cases h; rfl⟩
  rename_i hp
  split at h
  · exact .inr (.inl ⟨not_not.1 hp, by cases h; rfl⟩)
  rename_i hc
  split at h
  · exact .inr (.inl ⟨not_not.1 hp, by cases h; rfl⟩)
  rename_i hv
  rw [not_or, not_lt] at hv
  exact .inr (.inr ⟨not_not.1 hp, configured_eq_false_iff.1 (by simpa using hc), hv.1, hv.2, by cases h; rfl⟩)

theorem execEach_next (h : execEach s = .next t) :
    (∃ code, t = s.reject code) ∨ (s.phase = .idle ∧ s.length ≠ 0#32 ∧ t = s.enter (.gen 0#32)) := by
  rcases idleStripCommand_next h with ⟨-, rfl⟩ | ⟨-, -, rfl⟩ | ⟨hp, hc, hk⟩
  · exact .inl ⟨_, rfl⟩
  · exact .inl ⟨_, rfl⟩
  · exact .inr ⟨hp, hc, by cases hk; rfl⟩

theorem execGput_next {ca : BitVec 4} (h : execGput ca s = .next t) :
    ((∀ i, s.phase ≠ .gen i) ∧ t = s.reject .state) ∨
      (∃ i, s.phase = .gen i ∧ t = (s.setPixel i.toNat (s.creg ca)).enter (afterPixel s.length i)) := by
  unfold execGput at h
  split at h
  · exact .inr ⟨_, ‹_›, by cases h; rfl⟩
  · rename_i hn
    exact .inl ⟨fun i hi => hn i hi, by cases h; rfl⟩

theorem execPget_next {cd : BitVec 4} (h : execPget cd s = .next t) :
    (∃ code, t = s.reject code) ∨
      (s.phase = .idle ∧ s.opnd0.toNat < s.length.toNat ∧ t = s.setCreg cd (s.pixel s.opnd0.toNat)) := by
  rcases idleStripCommand_next h with ⟨-, rfl⟩ | ⟨-, -, rfl⟩ | ⟨hp, hc, hk⟩
  · exact .inl ⟨_, rfl⟩
  · exact .inl ⟨_, rfl⟩
  · split at hk
    · exact .inl ⟨.range, by cases hk; rfl⟩
    · exact .inr ⟨hp, by omega, by cases hk; rfl⟩

theorem execRest_next (h : execRest s = .next t) :
    (∃ code, t = s.reject code) ∨
      (s.phase = .idle ∧ s.length ≠ 0#32 ∧ t = s.enter (.restDelay s.opnd0)) := by
  rcases idleStripCommand_next h with ⟨-, rfl⟩ | ⟨-, -, rfl⟩ | ⟨hp, hc, hk⟩
  · exact .inl ⟨_, rfl⟩
  · exact .inl ⟨_, rfl⟩
  · exact .inr ⟨hp, hc, by cases hk; rfl⟩

theorem colourCommand_answers (s e : State) : ∃ t, colourCommand s e = .next t := by
  unfold colourCommand
  split <;> exact ⟨_, rfl⟩

theorem idleStripCommand_answers (s : State) {k : Answer State} (hk : ∃ t, k = .next t) :
    ∃ t, idleStripCommand s k = .next t := by
  unfold idleStripCommand
  split
  · exact ⟨_, rfl⟩
  · split
    · exact ⟨_, rfl⟩
    · exact hk

/-- Every command answers a next state in every state. -/
theorem exec_answers (i : Instr) (s : State) : ∃ t, exec i s = .next t := by
  cases i with
  | rgb | pal | mix | mixr | opac | cread => exact colourCommand_answers ..
  | new =>
    change ∃ t, execNew s = .next t
    unfold execNew
    split_ifs <;> exact ⟨_, rfl⟩
  | each => exact idleStripCommand_answers s ⟨_, rfl⟩
  | gput ca =>
    change ∃ t, execGput ca s = .next t
    unfold execGput
    split <;> exact ⟨_, rfl⟩
  | pget cd =>
    refine idleStripCommand_answers s ?_
    split <;> exact ⟨_, rfl⟩
  | rest => exact idleStripCommand_answers s ⟨_, rfl⟩
  | clrerr => exact ⟨_, rfl⟩

/-- A word written to CMD runs the command it spells, or is rejected ILLEGAL. -/
theorem execWord_next {w : Word} (h : execWord w s = .next t) :
    (∃ i, decode w = .ok i ∧ exec i s = .next t) ∨ (∃ e, decode w = .error e ∧ t = s.reject .illegal) := by
  unfold execWord at h
  split at h
  · exact .inl ⟨_, ‹_›, h⟩
  · exact .inr ⟨_, ‹_›, by cases h; rfl⟩

theorem execWord_answers (w : Word) (s : State) : ∃ t, execWord w s = .next t := by
  unfold execWord
  split
  · exact exec_answers ..
  · exact ⟨_, rfl⟩

end Sys2Proof.Machine
end

