-- ==== Sys2Proof/Laws/Operands.lean ====
section
/-! SUPPORT. Small laws of the number conversions: clamping, powers of two, the fields of a binary32 word. -/

namespace Sys2Proof.Machine

theorem clamp01_inRange (x : Rat) : 0 ≤ clamp01 x ∧ clamp01 x ≤ 1 :=
  ⟨le_min zero_le_one (le_max_left _ _), min_le_left _ _⟩

theorem clamp01_of_inRange {x : Rat} (h : 0 ≤ x ∧ x ≤ 1) : clamp01 x = x := by
  rw [clamp01, max_eq_right h.1, min_eq_right h.2]

theorem clamp01_of_nonpos {x : Rat} (h : x ≤ 0) : clamp01 x = 0 := by
  rw [clamp01, max_eq_left h, min_eq_right zero_le_one]

theorem clamp01_of_one_le {x : Rat} (h : 1 ≤ x) : clamp01 x = 1 := by
  rw [clamp01, max_eq_right (zero_le_one.trans h), min_eq_left h]

theorem pow2_eq_zpow (k : Int) : pow2 k = (2 : Rat) ^ k := by
  cases k with
  | ofNat n => simp [pow2]
  | negSucc n => simp [pow2, zpow_negSucc]

theorem f32Exponent_lt (w : Word) : f32Exponent w < 256 := (w.extractLsb' 23 8).isLt

theorem f32Fraction_lt (w : Word) : f32Fraction w < 2 ^ 23 := (w.extractLsb' 0 23).isLt

/-- A word without sign is its exponent and fraction side by side. -/
theorem toNat_eq_exponent_fraction (w : Word) (h : f32Sign w = false) :
    w.toNat = 2 ^ 23 * f32Exponent w + f32Fraction w := by
  have lt : w.toNat < 2 ^ 31 := by
    have m := BitVec.msb_eq_decide w
    rw [BitVec.msb_eq_getLsbD_last] at m
    simp only [f32Sign] at h
    simp_all
  unfold f32Exponent f32Fraction
  simp only [BitVec.extractLsb'_toNat, Nat.shiftRight_eq_div_pow]
  omega

theorem f32Magnitude_nonneg (w : Word) : 0 ≤ f32Magnitude w := by
  unfold f32Magnitude
  split_ifs
  · decide +kernel
  · exact le_rfl
  all_goals rw [pow2_eq_zpow]; positivity

end Sys2Proof.Machine
end

