-- ==== Sys2Proof/Laws/PerInstr.lean ====
section
/-! SUPPORT. One lemma per constructor of Instr for the families of LAWS.json: the family EncodeFields says which
fields the word of each command holds (30_encoding.md R59, R63, R66). -/

namespace Sys2Proof.Laws.EncodeFields
open Sys2Proof

/-- The command word is the command's opcode, its register fields (0 where it uses none) and its immediate. -/
def fieldsOf : Instr → BitVec 4 × BitVec 4 × BitVec 4 × BitVec 12
  | .rgb cd => (cd, 0, 0, 0)
  | .pal cd imm => (cd, 0, 0, imm)
  | .mix cd ca cb => (cd, ca, cb, 0)
  | .mixr cd ca cb => (cd, ca, cb, 0)
  | .opac cd ca => (cd, ca, 0, 0)
  | .cread ca => (0, ca, 0, 0)
  | .new => (0, 0, 0, 0)
  | .each => (0, 0, 0, 0)
  | .gput ca => (0, ca, 0, 0)
  | .pget cd => (cd, 0, 0, 0)
  | .rest => (0, 0, 0, 0)
  | .clrerr => (0, 0, 0, 0)

/-- The five fields of the encoded word. -/
def Statement (i : Instr) : Prop :=
  opcodeField (encode i) = i.opcode ∧ cdField (encode i) = (fieldsOf i).1 ∧
    caField (encode i) = (fieldsOf i).2.1 ∧ cbField (encode i) = (fieldsOf i).2.2.1 ∧
    immField (encode i) = (fieldsOf i).2.2.2

theorem of_assembleFields {i : Instr}
    (h : encode i = assembleFields i.opcode (fieldsOf i).1 (fieldsOf i).2.1 (fieldsOf i).2.2.1 (fieldsOf i).2.2.2) :
    Statement i := by
  rw [Statement, h]
  exact ⟨opcodeField_assembleFields .., cdField_assembleFields .., caField_assembleFields ..,
    cbField_assembleFields .., immField_assembleFields ..⟩

theorem rgb (cd : BitVec 4) : Statement (.rgb cd) := of_assembleFields rfl
theorem pal (cd : BitVec 4) (imm : BitVec 12) : Statement (.pal cd imm) := of_assembleFields rfl
theorem mix (cd ca cb : BitVec 4) : Statement (.mix cd ca cb) := of_assembleFields rfl
theorem mixr (cd ca cb : BitVec 4) : Statement (.mixr cd ca cb) := of_assembleFields rfl
theorem opac (cd ca : BitVec 4) : Statement (.opac cd ca) := of_assembleFields rfl
theorem cread (ca : BitVec 4) : Statement (.cread ca) := of_assembleFields rfl
theorem new : Statement .new := of_assembleFields rfl
theorem each : Statement .each := of_assembleFields rfl
theorem gput (ca : BitVec 4) : Statement (.gput ca) := of_assembleFields rfl
theorem pget (cd : BitVec 4) : Statement (.pget cd) := of_assembleFields rfl
theorem rest : Statement .rest := of_assembleFields rfl
theorem clrerr : Statement .clrerr := of_assembleFields rfl

end Sys2Proof.Laws.EncodeFields
end

