-- ==== Sys2Proof/Laws/Serializer.lean ====
section
/-! SUPPORT. Lengths of the bit lists of the serializer. -/

namespace Sys2Proof.Machine

theorem byteBits_length (v : Byte) : (byteBits v).length = 8 := rfl

theorem channelSequence_length (order : ChannelOrder) : (channelSequence order).length = 3 := by
  cases order <;> rfl

theorem pixelBits_length (order : ChannelOrder) (c : Colour) : (pixelBits order c).length = 24 := by
  cases order <;> rfl

theorem frameBits_nil (order : ChannelOrder) : frameBits order [] = [] := rfl

theorem frameBits_cons (order : ChannelOrder) (c : Colour) (buf : List Colour) :
    frameBits order (c :: buf) = pixelBits order c ++ frameBits order buf := rfl

end Sys2Proof.Machine
end

