-- ==== Sys2Proof/Laws/Step.lean ====
section
/-! SUPPORT. What a HOST access, an engine step and a step of the machine can do, said once. -/

namespace Sys2Proof.Machine

variable {s t : State}

/-- An aligned word access of the window is located at its offset. -/
theorem locate_window (p : Params) {off : Nat} (hlt : off < 0x40) (hal : off % 4 = 0) :
    locate p (p.engineBase + off) 4 = .ok off := by
  unfold locate
  rw [if_neg (by simp), if_neg (by omega), if_neg (by simpa using hal)]
  simp

theorem locate_ok {p : Params} {addr width off : Nat} (h : locate p addr width = .ok off) :
    width = 4 ∧ addr = p.engineBase + off ∧ off < 0x40 ∧ off % 4 = 0 := by
  unfold locate at h
  split_ifs at h with h1 h2 h3
  cases h
  exact ⟨by omega, by omega, by omega, by omega⟩

/-- A HOST write is ignored, stores an operand, or writes CMD. -/
theorem writeWindow_next {off : Nat} {v : Word} (h : writeWindow off v s = .next t) :
    t = s ∨ (off = 0x08 ∧ t = { s with opnd0 := v }) ∨ (off = 0x0C ∧ t = { s with opnd1 := v }) ∨
      (off = 0x10 ∧ t = { s with opnd2 := v }) ∨ (off = 0x00 ∧ execWord v s = .next t) := by
  unfold writeWindow windowReg at h
  split at h
  all_goals rename_i hr
  all_goals split at hr
  all_goals first | (cases hr; done) | skip
  all_goals first
    | exact .inl (by cases h; rfl)
    | exact .inr (.inl ⟨rfl, by cases h; rfl⟩)
    | exact .inr (.inr (.inl ⟨rfl, by cases h; rfl⟩))
    | exact .inr (.inr (.inr (.inl ⟨rfl, by cases h; rfl⟩)))
    | exact .inr (.inr (.inr (.inr ⟨rfl, h⟩)))

theorem writeWindow_answers (off : Nat) (v : Word) (s : State) : ∃ t, writeWindow off v s = .next t := by
  unfold writeWindow
  split <;> first | exact execWord_answers .. | exact ⟨_, rfl⟩

/-- The HOST's turn: nothing left; a write; a read or a poll, which enter the log and may put the poll back. -/
theorem hostStep_next (h : hostStep s = .next t) :
    (s.program = [] ∧ t = s) ∨
      (∃ addr v rest off, s.program = .write addr 4 v :: rest ∧ addr = s.params.engineBase + off ∧
        writeWindow off v { s with program := rest } = .next t) ∨
      (∃ off prog, t = { s with program := prog, readLog := s.readLog ++ [⟨off, s.readWindow off⟩] }) := by
  unfold hostStep at h
  split at h
  · exact .inl ⟨‹_›, by cases h; rfl⟩
  rename_i stmt rest hp
  unfold hostStatement at h
  split at h
  · split at h
    · rename_i hl
      obtain ⟨rfl, ha, -⟩ := locate_ok hl
      exact .inr (.inl ⟨_, _, _, _, hp, ha, h⟩)
    · cases h
  · split at h
    · cases h
      exact .inr (.inr ⟨_, rest, rfl⟩)
    · cases h
  · split at h
    · split at h
      · cases h
        exact .inr (.inr ⟨_, rest, rfl⟩)
      · cases h
        exact .inr (.inr ⟨_, _, rfl⟩)
    · cases h

/-- The transmit step: the next bit of the frame. -/
theorem transmitStep_next {p : Nat} (h : transmitStep p s = .next t) :
    ∃ b, (frameBits s.params.channelOrder s.buf)[p]? = some b ∧
      t = { s with
        wire := s.wire ++ [.bit b]
        pin := s.pin.low
        undelimited := s.markFrame p
        wireDirty := true
        phase := if p + 1 = 24 * s.length.toNat then .idle else .tx (p + 1) } := by
  unfold transmitStep at h
  split at h
  · exact ⟨_, ‹_›, by cases h; rfl⟩
  · cases h

/-- The engine's turn, by STATE. -/
theorem engineStep_next (h : engineStep s = .next t) :
    (s.phase.busy = false ∧ t = s) ∨ (∃ p, s.phase = .tx p ∧ transmitStep p s = .next t) ∨
      (∃ us, s.phase = .restDelay us ∧ t = delayStep us s) ∨
      (∃ us, s.phase = .restLatch us ∧ t = latchStep us s) := by
  unfold engineStep at h
  split at h
  · exact .inl ⟨by simp [*, Phase.busy], by cases h; rfl⟩
  · exact .inl ⟨by simp [*, Phase.busy], by cases h; rfl⟩
  · exact .inr (.inl ⟨_, ‹_›, h⟩)
  · exact .inr (.inr (.inl ⟨_, ‹_›, by cases h; rfl⟩))
  · exact .inr (.inr (.inr ⟨_, ‹_›, by cases h; rfl⟩))

/-- A step takes the next turn of the order, or the fair one when none is given. -/
theorem step_next (h : step s = .next t) :
    legalParams s.params = true ∧ ((s.schedule = [] ∧ takeTurn s.fairTurn s = .next t) ∨
      ∃ turn rest, s.schedule = turn :: rest ∧ takeTurn turn { s with schedule := rest } = .next t) := by
  unfold step at h
  split at h
  · refine ⟨‹_›, ?_⟩
    split at h
    · exact .inl ⟨‹_›, h⟩
    · exact .inr ⟨_, _, ‹_›, h⟩
  · cases h

theorem step_of_turn {turn : Turn} {rest : List Turn} (hl : legalParams s.params = true)
    (hs : s.schedule = turn :: rest) : step s = takeTurn turn { s with schedule := rest } := by
  simp [step, hl, hs]

theorem step_of_no_turn (hl : legalParams s.params = true) (hs : s.schedule = []) :
    step s = takeTurn s.fairTurn s := by
  simp [step, hl, hs]

end Sys2Proof.Machine
end

