-- ==== Sys2Proof/Tests/Slice0.lean ====
section
/-! SUPPORT. Tests, each with values from spec/ (95_test_vectors.md, or the rule named), and the witnesses that
the hypotheses of the obligations can be met. -/

namespace Sys2Proof.Tests
open Sys2Proof Sys2Proof.Machine Sys2Proof.Spec

/-- The answer is a next state with the property `p`. -/
def after (answer : Answer State) (p : State → Bool) : Bool :=
  match answer with
  | .next t => p t
  | .fault _ => false
  | .refused _ => false

/-- An answer that is a next state. -/
theorem answers_of_after {answer : Answer State} {p : State → Bool} (h : after answer p = true) :
    ∃ t, answer = .next t := by
  cases answer with
  | next t => exact ⟨t, rfl⟩
  | fault _ => cases h
  | refused _ => cases h

/-- A strip of two black pixels in STATE `p`, after one ENABLE. -/
def strip (p : Phase) : State :=
  { State.reset with
    length := 2#32, buf := [Colour.black, Colour.black], pin := .driven false, wire := [.enable], phase := p }

/-- C1 and C2 hold the two colours. -/
def withSources (a b : Colour) (s : State) : State := (s.setCreg 1 a).setCreg 2 b

/-! Ill-formed commands are refused by each check. -/

theorem test_wf_rgb_cd : (Instr.rgb 8).wellFormed = false := by decide
theorem test_wf_pal_cd : (Instr.pal 8 0).wellFormed = false := by decide
theorem test_wf_pal_imm : (Instr.pal 0 8).wellFormed = false ∧ (Instr.pal 0 0x800).wellFormed = false := by decide
theorem test_wf_mix_fields :
    (Instr.mix 8 0 0).wellFormed = false ∧ (Instr.mix 0 8 0).wellFormed = false ∧
      (Instr.mix 0 0 8).wellFormed = false := by decide
theorem test_wf_mixr_fields :
    (Instr.mixr 8 0 0).wellFormed = false ∧ (Instr.mixr 0 8 0).wellFormed = false ∧
      (Instr.mixr 0 0 8).wellFormed = false := by decide
theorem test_wf_opac_fields : (Instr.opac 8 0).wellFormed = false ∧ (Instr.opac 0 8).wellFormed = false := by decide
theorem test_wf_cread_ca : (Instr.cread 8).wellFormed = false := by decide
theorem test_wf_gput_ca : (Instr.gput 8).wellFormed = false := by decide
theorem test_wf_pget_cd : (Instr.pget 8).wellFormed = false := by decide
theorem test_wf_params :
    legalParams Params.reference = true ∧
      legalParams { Params.reference with maxLeds := 0 } = false ∧
      legalParams { Params.reference with maxLeds := 2 ^ 32 } = false ∧
      legalParams { Params.reference with engineBase := 32 } = false ∧
      legalParams { Params.reference with t1l := 451 } = false ∧
      legalParams { Params.reference with tTol := 200 } = false ∧
      legalParams { Params.reference with tRes := 1 } = false ∧
      legalParams { Params.reference with t0h := 850, t0l := 400 } = false := by decide

/-! Words written out bit by bit from the patterns of 30_encoding.md R63. -/

theorem test_decode_rgb : decode 0b00010000011100000000000000000000#32 = .ok (.rgb 7) := by decide
theorem test_decode_pal : decode 0b00010001001000000000000000000101#32 = .ok (.pal 2 5) := by decide
theorem test_decode_mix : decode 0b00010010001100010010000000000000#32 = .ok (.mix 3 1 2) := by decide
theorem test_decode_mixr : decode 0b00010011001100100100000000000000#32 = .ok (.mixr 3 2 4) := by decide
theorem test_decode_opac : decode 0b00010100010101110000000000000000#32 = .ok (.opac 5 7) := by decide
theorem test_decode_cread : decode 0b00010101000000110000000000000000#32 = .ok (.cread 3) := by decide
theorem test_decode_new : decode 0b00100000000000000000000000000000#32 = .ok .new := by decide
theorem test_decode_each : decode 0b00100001000000000000000000000000#32 = .ok .each := by decide
theorem test_decode_gput : decode 0b00100010000001100000000000000000#32 = .ok (.gput 6) := by decide
theorem test_decode_pget : decode 0b00100011011000000000000000000000#32 = .ok (.pget 6) := by decide
theorem test_decode_rest : decode 0b00100100000000000000000000000000#32 = .ok .rest := by decide
theorem test_decode_clrerr : decode 0b00111111000000000000000000000000#32 = .ok .clrerr := by decide

/-- 95_test_vectors.md L2.12 and the illegal rows of L2.3, L2.4, L2.7, L2.8, L2.9. -/
theorem test_decode_illegal :
    [0x00000000#32, 0xFF000000#32, 0x16000000#32, 0x25000000#32, 0x3E000000#32].all
      (fun w => decode w = .error .reservedOpcode) = true ∧
    [0x10100001#32, 0x12382000#32, 0x14508000#32, 0x11000008#32, 0x11800001#32, 0x12312001#32, 0x15100000#32,
      0x20000001#32, 0x3F000001#32, 0x22080000#32, 0x23800000#32].all
      (fun w => decode w = .error .mustBeZero) = true := by
  decide +kernel

/-- 20_memory.md R45: the low byte of 0x11200002 comes first. -/
theorem test_decode_bytes : decodeBytes [0x02#8, 0x00#8, 0x20#8, 0x11#8, 0xAA#8] = .ok (.pal 2 2, [0xAA#8]) := by
  decide

/-! Operand forms (95_test_vectors.md L2.1, L2.7). -/

theorem test_f32_words :
    f32 0x00000001#32 = 1 / 2 ^ 149 ∧ f32 0x80000000#32 = 0 ∧ f32 0x3F7FFFFF#32 = 16777215 / 16777216 ∧
      f32 0x3F800001#32 = 8388609 / 8388608 ∧ f32 0xBF800000#32 = -1 ∧ f32 0x7F7FFFFF#32 = 2 ^ 128 - 2 ^ 104 ∧
      f32 0xFF800000#32 = -(2 ^ 128 - 2 ^ 104) ∧ f32 0xFFFFFFFF#32 = 0 := by decide +kernel

theorem test_q8_ties : q8 (1 / 510) = 1#8 ∧ q8 (253 / 510) = 127#8 ∧ q8 (509 / 510) = 255#8 ∧ q8 (3 / 13) = 59#8 := by
  decide +kernel

/-- The literals of 95_test_vectors.md L1.2 and L1.11. -/
theorem test_literals :
    nearestF32 (12 / 10) = 0x3F99999A#32 ∧ nearestF32 (-1 / 10) = 0xBDCCCCCD#32 ∧
      nearestF32 (3 / 10) = 0x3E99999A#32 := by decide +kernel

/-! Commands. -/

/-- L1.2: rgb(1.2, -0.1, 0.5). -/
theorem test_rgb_clamps :
    after (exec (.rgb 1)
        { State.reset with opnd0 := 0x3F99999A#32, opnd1 := 0xBDCCCCCD#32, opnd2 := 0x3F000000#32 })
      (fun t => t.creg 1 = ⟨1, 0, 1 / 2⟩ ∧ t.err = .none) = true := by decide +kernel

/-- L2.3, the last row but two. -/
theorem test_pal_white : after (exec (.pal 7 7) State.reset) (fun t => t.creg 7 = ⟨1, 1, 1⟩) = true := by
  decide +kernel

/-- L2.4, the row with cd = ca. -/
theorem test_mix_source_is_destination :
    after (exec (.mix 1 1 2) (withSources ⟨0, 0, 1⟩ ⟨1, 1, 1⟩ State.reset))
      (fun t => t.creg 1 = ⟨1 / 2, 1 / 2, 1⟩) = true := by decide +kernel

/-- L2.5: weights 1 and 3, Red and Blue. -/
theorem test_mixr_weights :
    after (exec (.mixr 3 1 2)
        { withSources ⟨1, 0, 0⟩ ⟨0, 0, 1⟩ State.reset with opnd0 := 0x3F800000#32, opnd1 := 0x40400000#32 })
      (fun t => t.creg 3 = ⟨1 / 4, 0, 3 / 4⟩) = true := by decide +kernel

/-- L2.5: +inf and -inf sum to 0. -/
theorem test_mixr_zero_sum :
    after (exec (.mixr 3 1 2)
        { withSources ⟨1, 0, 0⟩ ⟨1, 1, 1⟩ State.reset with opnd0 := 0x7F800000#32, opnd1 := 0xFF800000#32 })
      (fun t => t.creg 3 = ⟨0, 0, 0⟩) = true := by decide +kernel

/-- L2.6: factor +inf. -/
theorem test_opac_infinity :
    after (exec (.opac 2 1) { withSources ⟨1 / 2, 0, 1 / 4⟩ Colour.black State.reset with opnd0 := 0x7F800000#32 })
      (fun t => t.creg 2 = ⟨1, 0, 1⟩) = true := by decide +kernel

/-- L1.11: the bytes of (0, 16777216/21810381, 5033165/21810381). -/
theorem test_cread_bytes :
    after (exec (.cread 1) (withSources ⟨0, 16777216 / 21810381, 5033165 / 21810381⟩ Colour.black State.reset))
      (fun t => t.result = 0x0000C43B#32) = true := by decide +kernel

/-- L2.8: OPND0 = 1 after reset. -/
theorem test_new_constructs :
    after (exec .new { State.reset with opnd0 := 1#32 })
      (fun t => t.status = 0x08#32 ∧ t.length = 1#32 ∧ t.buf = [⟨0, 0, 0⟩] ∧ t.wire = [.enable]) = true := by
  decide +kernel

/-- L2.8: 17 pixels where MAX_LEDS is 16. -/
theorem test_new_too_long :
    after (exec .new { State.reset with params := { Params.reference with maxLeds := 16 }, opnd0 := 17#32 })
      (fun t => t.status = 0x10#32 ∧ t.length = 0#32 ∧ t.wire = []) = true := by decide +kernel

/-- L2.9. -/
theorem test_each_enters_gen :
    after (exec .each (strip .idle)) (fun t => t.status = 0x09#32 ∧ t.gindex = 0#32) = true ∧
      after (exec .each State.reset) (fun t => t.status = 0x20#32) = true := by decide +kernel

/-- L2.9: GPUT of the first and of the last pixel. -/
theorem test_gput_stores :
    after (exec (.gput 1) (withSources ⟨1, 0, 0⟩ ⟨0, 0, 1⟩ (strip (.gen 0#32))))
      (fun t => t.buf = [⟨1, 0, 0⟩, ⟨0, 0, 0⟩] ∧ t.gindex = 1#32 ∧ t.phase.code = 1#3) = true := by decide +kernel

theorem test_gput_last :
    after (exec (.gput 2) (withSources ⟨1, 0, 0⟩ ⟨0, 0, 1⟩ (strip (.gen 1#32))))
      (fun t => t.buf = [⟨0, 0, 0⟩, ⟨0, 0, 1⟩] ∧ t.gindex = 0#32 ∧ t.phase = .tx 0) = true := by decide +kernel

/-- L2.9: index 1 of 2, and index 2 of 2. -/
theorem test_pget_reads :
    after (exec (.pget 1) { strip .idle with buf := [⟨0, 0, 0⟩, ⟨0, 0, 1⟩], opnd0 := 1#32 })
      (fun t => t.creg 1 = ⟨0, 0, 1⟩) = true ∧
    after (exec (.pget 1) { strip .idle with opnd0 := 2#32 }) (fun t => t.err = .range) = true := by decide +kernel

/-- L2.10: RESET(1000) although OPND0 was written 5 during the rest. -/
theorem test_rest_latches :
    after (exec .rest { strip .idle with opnd0 := 1000#32 })
      (fun t => after (engineStep { t with opnd0 := 5#32 })
        (fun u => u.phase.code = 4#3 ∧ after (engineStep u)
          (fun v => v.phase = .idle ∧ v.wire = [.enable, .reset 1000#32]) = true)) = true := by decide +kernel

/-- L2.9: CLRERR during TX. -/
theorem test_clrerr_in_tx :
    after (exec .clrerr { strip (.tx 5) with err := .range }) (fun t => t.err = .none ∧ t.phase = .tx 5) = true := by
  decide +kernel

/-- L2.12: the word of EACH in TX is a STATE error, the zero word an ILLEGAL one. -/
theorem test_check_order :
    after (execWord 0x21000000#32 (strip (.tx 5))) (fun t => t.err = .state) = true ∧
      after (execWord 0x00000000#32 (strip (.tx 5))) (fun t => t.err = .illegal) = true ∧
      after (execWord 0x20000000#32 (strip .idle)) (fun t => t.err = .config) = true := by decide +kernel

/-! The wire. -/

/-- L2.11: (1/4, 3/4, 1) in the order GRB: G = 191, R = 64, B = 255. -/
theorem test_pixel_bits :
    pixelBits .grb ⟨1 / 4, 3 / 4, 1⟩ =
      [true, false, true, true, true, true, true, true, false, true, false, false, false, false, false, false,
        true, true, true, true, true, true, true, true] := by decide +kernel

/-- R141, R144: the first bit of a frame on a dirty line marks it. -/
theorem test_transmit_marks :
    after (engineStep { strip (.tx 0) with wireDirty := true })
      (fun t => t.wire = [.enable, .bit false] ∧ t.undelimited = [1] ∧ t.phase = .tx 1) = true := by decide +kernel

/-- L2.13: a reset after 3 bits releases the pin once. -/
theorem test_reset_releases :
    let t := ({ strip (.tx 3) with wire := [.enable, .bit true, .bit true, .bit true] } : State).resetInput
    t.status = 0#32 ∧ t.wire = [.enable, .bit true, .bit true, .bit true, .release] ∧
      t.resetInput.wire = t.wire ∧ t.undelimited = [1] := by decide +kernel

/-- 30_encoding.md R71: `rgb.i c1, 1.2, -0.1, 0.5` and `wait.gen`. -/
theorem test_pseudo :
    expand Params.reference (.rgbI 1 (.dec (12 / 10)) (.dec (-1 / 10)) (.hex 0x3F000000#32)) =
      [.write 8 4 0x3F99999A#32, .write 12 4 0xBDCCCCCD#32, .write 16 4 0x3F000000#32, .write 0 4 0x10100000#32] ∧
    expand Params.reference .waitGen = [.poll 4 0x7#32 0x1#32] := by decide +kernel

/-- 30_encoding.md R69: a word the assembler makes, and lines it refuses. -/
theorem test_assembler :
    assembleLine "pal c1, green" = some 0x11100002#32 ∧ assembleLine "rgb c8" = none ∧
      assembleLine "pal c1, 8" = none ∧ assembleLine "nop" = none := by decide +kernel

/-- The host's probe: from reset, the next step is the written command (NEW with OPND0 = 0 is CONFIG). -/
theorem test_fetch_word :
    after (step (State.reset.withFetchWord 32 0x20000000)) (fun t => t.status = 0x10#32) = true ∧
      decodeTableWord 32 0x20000000 = some .new := by decide +kernel

/-! Witnesses: states and operands that meet the hypotheses of the obligations.  Commands answer in each STATE
of `strip`, which is any STATE that fits a strip of two pixels. -/

theorem test_witness_inv (p : Phase) (h : p.fits 2#32) : Inv (strip p) := by
  refine ⟨?_, ?_, rfl, fun _ => ?_, h, rfl, fun e => ?_, (by decide : (0#32).extractLsb' 24 8 = 0#8)⟩
  · show ∀ i : Fin 8, (Vector.replicate 8 Colour.black)[i].InRange
    decide +kernel
  · show ∀ c ∈ [Colour.black, Colour.black], c.InRange
    decide +kernel
  · show 2 ≤ 4294967295
    decide
  · cases e

/-- Every STATE, the index and the cursor at both ends of their ranges. -/
theorem test_witness_inv_each :
    Inv (strip .idle) ∧ Inv (strip (.gen 0#32)) ∧ Inv (strip (.gen 1#32)) ∧ Inv (strip (.tx 0)) ∧
      Inv (strip (.tx 47)) ∧ Inv (strip (.restDelay 0#32)) ∧ Inv (strip (.restLatch 0xFFFFFFFF#32)) :=
  ⟨test_witness_inv _ trivial, test_witness_inv _ (by simp [Phase.fits]), test_witness_inv _ (by simp [Phase.fits]),
    test_witness_inv _ (by simp [Phase.fits]), test_witness_inv _ (by simp [Phase.fits]), test_witness_inv _ (by simp [Phase.fits]),
    test_witness_inv _ (by simp [Phase.fits])⟩

theorem test_witness_states :
    IdleOrGen State.reset ∧ IdleOrGen (strip .idle) ∧ IdleOrGen (strip (.gen 1#32)) ∧ Busy (strip (.tx 47)) ∧
      Busy (strip (.restDelay 0#32)) ∧ Busy (strip (.restLatch 0#32)) :=
  ⟨.inl rfl, .inl rfl, .inr ⟨_, rfl⟩, .inl ⟨_, rfl⟩, .inr (.inl ⟨_, rfl⟩), .inr (.inr ⟨_, rfl⟩)⟩

/-- DecodeOfEncode, EncodeOfDecode, BytesAreLittleEndian, and both sides of `Spells`: the last register and the
first refused field. -/
theorem test_witness_encoding :
    (Instr.mixr 7 7 7).wellFormed = true ∧ decode 0x13777000#32 = .ok (.mixr 7 7 7) ∧
      (Instr.pal 7 7).wellFormed = true ∧ (Instr.pal 7 8).wellFormed = false ∧
      (Instr.opac 7 8).wellFormed = false ∧ (0x3C % 4 = 0 ∧ 3 < 4) := by decide

/-- OpcodeRowsNeverOverlap. -/
theorem test_witness_rows : ∀ row ∈ opcodeTable, row.matches row.pattern = true := by decide

/-- ReservedOpcodesAreIllegal: the ends of each reserved range. -/
theorem test_witness_reserved :
    (opcodeField 0x00000000#32 ≤ 0x0F#8 ∧ opcodeField 0x0FFFFFFF#32 ≤ 0x0F#8) ∧
    (0x16#8 ≤ opcodeField 0x16000000#32 ∧ opcodeField 0x1F000000#32 ≤ 0x1F#8) ∧
    (0x25#8 ≤ opcodeField 0x25000000#32 ∧ opcodeField 0x3E000000#32 ≤ 0x3E#8) ∧
    (0x40#8 ≤ opcodeField 0x40000000#32 ∧ 0x40#8 ≤ opcodeField 0xFF000000#32) := by decide

/-- MustBeZeroBitsAreIllegal: the first row and a row of three registers, at their highest and lowest bits. -/
theorem test_witness_must_be_zero :
    (opcodeField 0x10800000#32 = 0x10#8 ∧ 0x10800000#32 &&& 0x008FFFFF#32 ≠ 0#32) ∧
    (opcodeField 0x13000001#32 = 0x13#8 ∧ 0x13000001#32 &&& 0x00888FFF#32 ≠ 0#32) ∧
    (opcodeField 0x3F000001#32 = 0x3F#8 ∧ 0x3F000001#32 &&& 0x00FFFFFF#32 ≠ 0#32) := by decide

/-- AssemblerFollowsSyntaxTable. -/
theorem test_witness_assembler :
    (7 < 8 ∧ 8 ≤ 8) ∧ "nop" ∉ ["rgb", "pal", "mix", "mixr", "opac", "cread", "new", "each", "gput", "pget", "rest",
      "clrerr"] ∧ AsmOperand.creg 8 ∈ [AsmOperand.creg 8] := by decide

/-- LiteralsRoundToNearest: a literal between two words, the greatest one, and one half-way between the words of 1
and of the next value. -/
theorem test_witness_literals :
    (-maxF ≤ 1 / 10 ∧ 1 / 10 ≤ maxF ∧ f32Exponent 0x3DCCCCCD#32 ≠ 255) ∧
      (-maxF ≤ maxF ∧ maxF ≤ maxF ∧ f32Exponent 0x7F7FFFFF#32 ≠ 255) ∧
      (let x : Rat := 16777217 / 16777216
       (-maxF ≤ x) ∧ x ≤ maxF ∧ f32Exponent 0x3F800001#32 ≠ 255 ∧
        |f32 (nearestF32 x) - x| = |f32 0x3F800001#32 - x| ∧ f32 0x3F800001#32 ≠ f32 (nearestF32 x)) := by
  decide +kernel

/-- The colour laws (MixrWeighsChannels, ColourResultsStayInRange, MixLaws, MixRatioLaws, OpacityLaws): colours in
range, weights with a sum of 0 and not, factors of each kind. -/
theorem test_witness_colours :
    (⟨1, 0, 1 / 2⟩ : Colour).InRange ∧ (⟨0, 1, 1 / 2⟩ : Colour).InRange ∧ ((2 : Rat) + -2 = 0 ∧ (2 : Rat) + -1 ≠ 0) ∧
      (3 : Rat) ≠ 0 ∧ ((0 : Rat) ≤ 1 / 4 * 4 ∧ (1 : Rat) / 4 * 4 ≤ 1) ∧ ((0 : Rat) ≤ 1 ∧ (1 : Rat) ≤ 1) ∧
      ((-1 : Rat) ≤ 0 ∧ (0 : Rat) ≤ 4) := by decide +kernel

/-- MixRatioCorners and BinaryWordsDecodeExactly: two NaNs, an infinity, a subnormal and a normal word. -/
theorem test_witness_words :
    (f32Exponent 0x7FC00000#32 = 255 ∧ f32Fraction 0x7FC00000#32 ≠ 0) ∧
      (f32Exponent 0x7F800001#32 = 255 ∧ f32Fraction 0x7F800001#32 ≠ 0) ∧
      (f32Exponent 0xFF800000#32 = 255 ∧ f32Fraction 0xFF800000#32 = 0) ∧
      f32Exponent 0x007FFFFF#32 = 0 ∧ (f32Exponent 0x00800000#32 ≠ 0 ∧ f32Exponent 0x7F7FFFFF#32 ≠ 255) := by
  decide

/-- ByteConversionThresholds: channel values and byte values at the ends. -/
theorem test_witness_channels :
    ((0 : Rat) ≤ 0 ∧ (0 : Rat) ≤ 1) ∧ ((0 : Rat) ≤ 1 ∧ (1 : Rat) ≤ 1) ∧ ((0 : Rat) ≤ 1 / 510 ∧ (1 : Rat) / 510 ≤ 1) ∧
      (1 ≤ 1 ∧ 1 ≤ 254) ∧ (1 ≤ 254 ∧ 254 ≤ 254) := by decide +kernel

/-- PaletteColoursAreOrdinary: the operand words of Yellow. -/
theorem test_witness_palette :
    let s : State := { State.reset with opnd0 := 0x3F800000#32, opnd1 := 0x3F800000#32 }
    let imm : BitVec 12 := 3
    IdleOrGen s ∧ s.opnd0 = (if imm[0] then 0x3F800000#32 else 0#32) ∧
      s.opnd1 = (if imm[1] then 0x3F800000#32 else 0#32) ∧
      s.opnd2 = (if imm[2] then 0x3F800000#32 else 0#32) :=
  ⟨.inl rfl, rfl, rfl, rfl⟩

/-- ColourResultDependsOnlyOnSources: OPAC in IDLE without a strip and in GEN, with the same source and
factor. -/
theorem test_witness_sources :
    IdleOrGen State.reset ∧ IdleOrGen (strip (.gen 0#32)) ∧ isColour (.opac 2 1) = true ∧
      destination (.opac 2 1) = some 2 ∧ (∀ f ∈ sources (.opac 2 1), cregOf State.reset f = cregOf (strip (.gen 0#32)) f) ∧
      State.reset.opnd0 = (strip (.gen 0#32)).opnd0 ∧ (operandsRead (.opac 2 1)).2.1 = false ∧
      (operandsRead (.opac 2 1)).2.2 = false ∧ (∃ t, exec (.opac 2 1) State.reset = .next t) ∧
      ∃ t, exec (.opac 2 1) (strip (.gen 0#32)) = .next t :=
  ⟨.inl rfl, .inr ⟨_, rfl⟩, rfl, rfl, fun _ _ => rfl, rfl, rfl, rfl, ⟨_, rfl⟩, ⟨_, rfl⟩⟩

/-- ColourCommandsFrame: accepted, rejected, and CREAD. -/
theorem test_witness_colour_frame :
    (isColour (.mix 3 1 2) = true ∧ ∃ t, exec (.mix 3 1 2) (strip (.gen 0#32)) = .next t) ∧
      (∃ t, exec (.mix 3 1 2) (strip (.tx 0)) = .next t) ∧
      (isColour (.cread 7) = true ∧ ∃ t, exec (.cread 7) State.reset = .next t) :=
  ⟨⟨rfl, _, rfl⟩, ⟨_, rfl⟩, rfl, _, rfl⟩

/-- NewConstructsStrip, each clause: both rejections of the operand at their bounds, the least and the greatest
strip. -/
theorem test_witness_new :
    (strip (.tx 0)).phase ≠ .idle ∧ ((strip .idle).phase = .idle ∧ (strip .idle).length ≠ 0#32) ∧
      (State.reset.phase = .idle ∧ State.reset.opnd0 = 0#32) ∧
      (let s : State := { State.reset with params := { Params.reference with maxLeds := 16 }, opnd0 := 17#32 }
       s.phase = .idle ∧ s.params.maxLeds < s.opnd0.toNat) ∧
      (let s : State := { State.reset with opnd0 := 1#32 }
       s.phase = .idle ∧ s.length = 0#32 ∧ 1 ≤ s.opnd0.toNat ∧ s.opnd0.toNat ≤ s.params.maxLeds) ∧
      (let s : State := { State.reset with opnd0 := 0xFFFFFFFF#32 }
       s.phase = .idle ∧ s.length = 0#32 ∧ 1 ≤ s.opnd0.toNat ∧ s.opnd0.toNat ≤ s.params.maxLeds) := by
  decide +kernel

/-- EachOpensFrame, RestDelaysThenLatches, PgetReadsPixel, each clause; the last index and the first past it. -/
theorem test_witness_idle_commands :
    (strip (.gen 0#32)).phase ≠ .idle ∧ (State.reset.phase = .idle ∧ State.reset.length = 0#32) ∧
      ((strip .idle).phase = .idle ∧ (strip .idle).length ≠ 0#32) ∧
      (let s : State := { strip .idle with opnd0 := 2#32 }
       s.phase = .idle ∧ s.length ≠ 0#32 ∧ s.length.toNat ≤ s.opnd0.toNat) ∧
      (let s : State := { strip .idle with opnd0 := 1#32 }
       s.phase = .idle ∧ s.opnd0.toNat < s.length.toNat ∧ s.buf[s.opnd0.toNat]? = some Colour.black) ∧
      (strip (.restDelay 5#32)).phase = .restDelay 5#32 ∧ (strip (.restLatch 5#32)).phase = .restLatch 5#32 := by
  decide +kernel

/-- GputStoresPixel, each clause: outside GEN, the last but one pixel, the last. -/
theorem test_witness_gput :
    (∀ i, (strip .idle).phase ≠ .gen i) ∧
      ((strip (.gen 0#32)).phase = .gen 0#32 ∧ (0#32).toNat + 1 < (strip (.gen 0#32)).length.toNat) ∧
      ((strip (.gen 1#32)).phase = .gen 1#32 ∧ (strip (.gen 1#32)).length.toNat ≤ (1#32).toNat + 1) :=
  ⟨fun _ h => (nomatch h), ⟨rfl, by decide⟩, rfl, by decide⟩

/-- StripCommandsFrame. -/
theorem test_witness_strip_frame :
    (∃ t, exec .new { State.reset with opnd0 := 3#32 } = .next t) ∧ (∃ t, exec .each (strip .idle) = .next t) ∧
      (∃ t, exec (.gput 1) (strip (.gen 1#32)) = .next t) ∧ (∃ t, exec (.pget 1) (strip .idle) = .next t) ∧
      (∃ t, exec .rest (strip .idle) = .next t) ∧ ∃ t, exec .clrerr (strip (.tx 0)) = .next t :=
  ⟨⟨_, rfl⟩, ⟨_, rfl⟩, ⟨_, rfl⟩, ⟨_, rfl⟩, ⟨_, rfl⟩, ⟨_, rfl⟩⟩

/-- ChecksRunInOrder: a word of no command, a command that fails the last check, one that passes them all. -/
theorem test_witness_checks :
    decode 0#32 = .error .reservedOpcode ∧
      (decode 0x23100000#32 = .ok (.pget 1) ∧ firstError (.pget 1) { strip .idle with opnd0 := 2#32 } = .range) ∧
      (decode 0x23100000#32 = .ok (.pget 1) ∧ firstError (.pget 1) { strip .idle with opnd0 := 1#32 } = .none) := by
  decide

/-- WindowReadMap and WindowWritesByRegister: GEN and not GEN, the ends of the reserved range, the four read-only
registers. -/
theorem test_witness_window :
    (strip (.gen 1#32)).phase = .gen 1#32 ∧ (∀ i, (strip (.tx 1)).phase ≠ .gen i) ∧
      (0x20 ≤ 0x20 ∧ 0x20 ≤ 0x3C) ∧ (0x20 ≤ 0x3C ∧ 0x3C ≤ 0x3C) ∧
      (∀ off ∈ [0x04, 0x14, 0x18, 0x1C, 0x20, 0x3C], writeWindow off 7#32 State.reset = .next State.reset) ∧
      ∃ t, writeWindow 0x10 7#32 State.reset = .next t :=
  ⟨rfl, fun _ h => (nomatch h), by decide, by decide,
    fun off h => by
      simp only [List.mem_cons, List.not_mem_nil, or_false] at h
      rcases h with rfl | rfl | rfl | rfl | rfl | rfl <;> rfl,
    ⟨_, rfl⟩⟩

/-- ReadsHaveNoSideEffect and PollRepeatsUntilEqual: the first and the last offset; a poll that is done and one
that is not. -/
theorem test_witness_reads :
    (0x00 < 0x40 ∧ 0x00 % 4 = 0) ∧ (0x3C < 0x40 ∧ 0x3C % 4 = 0) ∧
      (let s : State := { strip .idle with program := [.read 0x3C 4, .read 0x3C 4] }
       s.program = [.read (s.params.engineBase + 0x3C) 4, .read (s.params.engineBase + 0x3C) 4]) ∧
      (let s : State := { strip .idle with program := [.poll 0x04 0x7#32 0x0#32] }
       s.program = [.poll (s.params.engineBase + 0x04) 0x7#32 0x0#32] ∧ s.readWindow 0x04 &&& 0x7#32 = 0x0#32) ∧
      (let s : State := { strip (.tx 1) with program := [.poll 0x04 0x7#32 0x0#32] }
       s.program = [.poll (s.params.engineBase + 0x04) 0x7#32 0x0#32] ∧ s.readWindow 0x04 &&& 0x7#32 ≠ 0x0#32) := by
  decide +kernel

/-- BadAccessesAreRefused, each clause at a boundary: the first address past the window, an address inside a
word, a half-word access, a bad parameter set, and the last good access; a write and a poll. -/
theorem test_witness_accesses :
    (let s : State := { State.reset with params := { Params.reference with engineBase := 0x40 } }
     s.params.engineBase + 0x3F < 0x80 ∧ 0x3F < s.params.engineBase ∧ (0x7E - s.params.engineBase) % 4 ≠ 0 ∧
        (s.params.engineBase ≤ 0x7C ∧ 0x7C ≤ s.params.engineBase + 0x3F ∧ (0x7C - s.params.engineBase) % 4 = 0)) ∧
      (2 ≠ 4) ∧ legalParams { Params.reference with maxLeds := 0 } = false ∧
      ({ State.reset with program := [.write 0x80 4 0#32] } : State).program = [.write 0x80 4 0#32] ∧
      ({ State.reset with program := [.poll 0x3C 0#32 0#32] } : State).program = [.poll 0x3C 0#32 0#32] := by
  decide +kernel

/-- 30_encoding.md R70 with 20_memory.md R44 and 60_exceptions.md R159: a poll of an address inside a word, and one
of the first address past the window, are refused. -/
theorem test_poll_refused :
    hostStep { State.reset with program := [.poll 0x06 0x7#32 0#32] } = .refused .misalignedAccess ∧
      hostStep { State.reset with program := [.poll 0x40 0x7#32 0#32] } = .refused .outsideWindow := ⟨rfl, rfl⟩

/-- 42_protocol.md R125, R133: a 1 bit is high for T1H, then low for T1L; a 0 bit is high for T0H, then low for T0L;
a latch is low for at least its microseconds plus T_RES (here 10 + 50 µs). -/
theorem test_pulse_shapes :
    waveform Params.reference [.bit true, .bit false, .reset 10#32] =
      [⟨true, .within 800 150⟩, ⟨false, .within 450 150⟩, ⟨true, .within 400 150⟩, ⟨false, .within 850 150⟩,
        ⟨false, .atLeast 60000⟩] := by decide

/-- LegalParametersMeetConstraints: the reference set meets both sides. -/
theorem test_witness_params : legalParams State.reset.params = true := by decide

/-- StepRunsWrittenCommand, each clause, and FetchWordRunsNext. -/
theorem test_witness_step :
    (let s : State := { State.reset with program := [.write 0 4 0x10100000#32], schedule := [.host] }
     legalParams s.params = true ∧ s.program = [.write s.params.engineBase 4 0x10100000#32] ∧
        s.schedule = [.host] ∧ decode 0x10100000#32 = .ok (.rgb 1) ∧ decode 0#32 = .error .reservedOpcode) ∧
    (let s : State := { State.reset with program := [.write 0 4 0x10100000#32] }
     s.schedule = [] ∧ s.phase = .idle) ∧
    decodeTableWord 32 0x24000000 = some .rest := by decide +kernel

/-- StepKeepsInvariant, StateChangesAsListed, StripHoldsUntilReset, WireTraceOnlyGrows: a step of the engine, of
the HOST and of the reset input, each from a state that meets the invariant. -/
theorem test_witness_steps :
    Inv (strip (.tx 47)) ∧ (strip (.tx 47)).length ≠ 0#32 ∧ turnOf (strip (.tx 47)) = .engine ∧
      (∃ t, step (strip (.tx 47)) = .next t) ∧
      turnOf (strip .idle) = .host ∧ (∃ t, step (strip .idle) = .next t) ∧
      turnOf { strip .idle with schedule := [.reset] } = .reset ∧
      ∃ t, step { strip .idle with schedule := [.reset] } = .next t :=
  ⟨test_witness_inv _ (by simp [Phase.fits]), by decide, rfl,
    answers_of_after (p := fun _ => true) (by decide +kernel), rfl, ⟨_, rfl⟩, rfl, ⟨_, rfl⟩⟩

/-- StateChangesAsListed, rows of the table: EACH and REST from IDLE, the last GPUT from GEN, the end of the delay,
and the engine's turn in IDLE. -/
theorem test_witness_rows_of_state :
    (let s : State := { strip .idle with program := [.write 0 4 0x21000000#32] }
     turnOf s = .host ∧ hostCommand s = some .each ∧ after (step s) (fun t => t.phase = .gen 0#32) = true) ∧
    (let s : State := { strip .idle with program := [.write 0 4 0x24000000#32], opnd0 := 7#32 }
     turnOf s = .host ∧ hostCommand s = some .rest ∧ after (step s) (fun t => t.phase = .restDelay 7#32) = true) ∧
    (let s : State := { strip (.gen 1#32) with program := [.write 0 4 0x22010000#32] }
     turnOf s = .host ∧ hostCommand s = some (.gput 1) ∧ after (step s) (fun t => t.phase = .tx 0) = true) ∧
    (turnOf (strip (.restDelay 7#32)) = .engine ∧
      after (step (strip (.restDelay 7#32))) (fun t => t.phase = .restLatch 7#32) = true) ∧
    (let s : State := { strip .idle with schedule := [.engine] }
     turnOf s = .engine ∧ s.phase = .idle ∧ after (step s) (fun t => t = strip .idle) = true) := by
  decide +kernel

/-- InvariantExcludesFault says something: outside the invariant the fault is there. -/
theorem test_witness_fault :
    (match step (strip (.tx 48)) with | .next _ => false | .fault r => decide (r = .cursorPastFrame) | .refused _ => false) =
      true := by decide +kernel

/-- RegisterWriters: an engine step, a CREAD that changes RESULT, a PAL that changes a register. -/
theorem test_witness_writers :
    (∃ t, engineStep (strip (.restDelay 1#32)) = .next t) ∧
      after (execWord 0x15010000#32 (withSources ⟨1, 0, 0⟩ Colour.black State.reset))
        (fun t => t.result ≠ State.reset.result) = true ∧
      after (execWord 0x11100001#32 State.reset) (fun t => t.cregs[(1 : Fin 8)] ≠ State.reset.cregs[(1 : Fin 8)]) = true :=
  ⟨⟨_, rfl⟩, by decide +kernel, by decide +kernel⟩

/-- TransmissionIsNotPreempted, TransmitStepSendsNextBit, UndelimitedFramesAreMarked: the first and the last
bit. -/
theorem test_witness_transmit :
    ((strip (.tx 47)).phase = .tx 47 ∧ ∃ t, hostStep (strip (.tx 47)) = .next t) ∧ Instr.rest ≠ .clrerr ∧
      (Inv (strip (.tx 0)) ∧ Inv (strip (.tx 47))) ∧
      (let s : State := { strip (.tx 0) with wireDirty := true }
       s.phase = .tx 0 ∧ s.wireDirty = true ∧ ∃ t, engineStep s = .next t) ∧
      ((strip (.tx 0)).wireDirty = false ∧ ∃ t, engineStep (strip (.tx 0)) = .next t) :=
  ⟨⟨rfl, _, rfl⟩, by decide, ⟨test_witness_inv _ (by simp [Phase.fits]), test_witness_inv _ (by simp [Phase.fits])⟩, 
    ⟨rfl, rfl, answers_of_after (p := fun _ => true) (by decide +kernel)⟩, rfl,
    answers_of_after (p := fun _ => true) (by decide +kernel)⟩

/-- FrameBitsLayout: the last bit of the last channel of pixel 1. -/
theorem test_witness_layout :
    ([Colour.black, ⟨1, 0, 0⟩] : List Colour)[1]? = some ⟨1, 0, 0⟩ ∧ (channelSequence .grb)[2]? = some .blue ∧ 7 < 8 := by
  decide +kernel

/-- WholeFrameReachesTheWire and BusyPhasesEnd; FrameDurationIsFixed by its parameters. -/
theorem test_witness_frame :
    Inv (strip (.tx 0)) ∧ legalParams (strip (.tx 0)).params = true ∧ (strip (.tx 0)).phase = .tx 0 ∧
      (strip (.tx 0)).schedule = [] ∧ 47 < 24 * (strip (.tx 0)).length.toNat ∧ Inv (strip (.tx 47)) ∧
      (Inv (strip (.restDelay 9#32)) ∧ (strip (.restDelay 9#32)).phase = .restDelay 9#32) ∧
      (Inv (strip (.restLatch 9#32)) ∧ (strip (.restLatch 9#32)).phase = .restLatch 9#32) :=
  ⟨test_witness_inv _ (by simp [Phase.fits]), by decide, rfl, rfl, by decide, test_witness_inv _ (by simp [Phase.fits]),
    ⟨test_witness_inv _ (by simp [Phase.fits]), rfl⟩, test_witness_inv _ (by simp [Phase.fits]), rfl⟩

/-- GeneratorPhaseAdvancesByGput: a colour command and a GPUT. -/
theorem test_witness_generator :
    (∀ ca, decode 0x11100001#32 ≠ .ok (.gput ca)) ∧ (∃ t, execWord 0x11100001#32 (strip (.gen 0#32)) = .next t) ∧
      decode 0x22010000#32 = .ok (.gput 1) ∧ ∃ t, execWord 0x22010000#32 (strip (.gen 0#32)) = .next t :=
  ⟨by decide, ⟨_, rfl⟩, by decide, ⟨_, rfl⟩⟩

/-- GeneratorCallLaw: two answers, the first prepared by an operand write, a PAL, a REST that is rejected and a
word of no command. -/
theorem test_witness_call_law :
    let answers : List (List (Nat × Word) × BitVec 4) :=
      [([(0x08, 5#32), (0x00, 0x11100002#32), (0x00, 0x24000000#32), (0x00, 0x00000000#32)], 1), ([], 7)]
    Inv (strip .idle) ∧ (strip .idle).phase = .idle ∧ (strip .idle).length ≠ 0#32 ∧
      answers.length = (strip .idle).length.toNat ∧
      ∀ a ∈ answers, (∀ x ∈ a.1, Prepares x) ∧ a.2.msb = false := by
  refine ⟨test_witness_inv _ trivial, rfl, by decide, rfl, ?_⟩
  intro a ha
  simp only [List.mem_cons, List.not_mem_nil, or_false] at ha
  rcases ha with rfl | rfl
  · refine ⟨fun x hx => ?_, by decide⟩
    simp only [List.mem_cons, List.not_mem_nil, or_false] at hx
    rcases hx with rfl | rfl | rfl | rfl
    · exact fun _ h => nomatch h
    · exact fun ca _ => (by decide : ∀ ca, decode 0x11100002#32 ≠ .ok (.gput ca)) ca
    · exact fun ca _ => (by decide : ∀ ca, decode 0x24000000#32 ≠ .ok (.gput ca)) ca
    · exact fun ca _ => (by decide : ∀ ca, decode 0x00000000#32 ≠ .ok (.gput ca)) ca
  · exact ⟨fun _ hx => (nomatch hx), by decide⟩

/-- ResetInputRestores: with the pin released and with it driven; outside TX, and in TX with the frame marked and
not marked. -/
theorem test_witness_reset :
    (legalParams State.reset.params = true ∧ ({ State.reset with schedule := [.reset] } : State).schedule = [.reset] ∧
      State.reset.pin = .released) ∧ (strip (.gen 0#32)).pin = .driven false ∧
      (∀ p, (strip (.gen 0#32)).phase ≠ .tx p) ∧
      (let s : State := { strip (.tx 1) with wire := [.enable, .bit true], undelimited := [1] }
       s.phase = .tx 1 ∧ s.wire.length - 1 ∈ s.undelimited) ∧
      (let s : State := { strip (.tx 1) with wire := [.enable, .bit true] }
       s.phase = .tx 1 ∧ s.wire.length - 1 ∉ s.undelimited) :=
  ⟨by decide, rfl, fun _ h => (nomatch h), by decide, by decide⟩

end Sys2Proof.Tests
end

/-! What a command, a HOST access and a step can do, said once for every statement about the state: the outcomes of
`exec` with the guard of each, the HOST's turn by the command it writes, the step by the turn it takes. -/

namespace Sys2Proof.Machine
open Sys2Proof.Spec

variable {s t : State}

/-! Commands -/

/-- The colour register an accepted command writes, with the colour it puts there (40_color.md, 41_strip.md R112). -/
def State.written (s : State) : Instr → Option (BitVec 4 × Colour)
  | .rgb cd => some (cd, rgbColour (f32 s.opnd0) (f32 s.opnd1) (f32 s.opnd2))
  | .pal cd imm => some (cd, palette (paletteIndex imm))
  | .mix cd ca cb => some (cd, mixColour (s.creg ca) (s.creg cb))
  | .mixr cd ca cb => some (cd, mixRatio (s.creg ca) (s.creg cb) (f32 s.opnd0) (f32 s.opnd1))
  | .opac cd ca => some (cd, opacity (s.creg ca) (f32 s.opnd0))
  | .pget cd => some (cd, s.pixel s.opnd0.toNat)
  | .cread _ => none
  | .new => none
  | .each => none
  | .gput _ => none
  | .rest => none
  | .clrerr => none

theorem destination_eq_written (s : State) (i : Instr) : destination i = (s.written i).map Prod.fst := by
  cases i <;> rfl

/-- Everything a command can do, with the guards under which it does it (60_exceptions.md R151, R152): it is rejected
with its first error and changes nothing else, or it is accepted and has its effect. -/
inductive CommandOutcome (s : State) : Instr → State → Prop
  | rejected {i : Instr} (herr : firstError i s ≠ .none) : CommandOutcome s i (s.reject (firstError i s))
  | register {i : Instr} {cd : BitVec 4} {c : Colour} (hacc : firstError i s = .none)
      (hw : s.written i = some (cd, c)) : CommandOutcome s i (s.setCreg cd c)
  | cread {ca : BitVec 4} (hacc : s.phase.acceptsColour = true) :
      CommandOutcome s (.cread ca) { s with result := packColour (s.creg ca) }
  | new (hp : s.phase = .idle) (hl : s.length = 0#32) (h0 : s.opnd0 ≠ 0#32)
      (hmax : s.opnd0.toNat ≤ s.params.maxLeds) : CommandOutcome s .new s.construct
  | each (hp : s.phase = .idle) (hl : s.length ≠ 0#32) : CommandOutcome s .each (s.enter (.gen 0#32))
  | gput {ca : BitVec 4} {g : Word} (hp : s.phase = .gen g) :
      CommandOutcome s (.gput ca) ((s.setPixel g.toNat (s.creg ca)).enter (afterPixel s.length g))
  | rest (hp : s.phase = .idle) (hl : s.length ≠ 0#32) : CommandOutcome s .rest (s.enter (.restDelay s.opnd0))
  | clrerr : CommandOutcome s .clrerr s.clearError

theorem isIdle_iff {p : Phase} : isIdle p = true ↔ p = .idle := by
  cases p <;> simp [isIdle]

theorem isIdle_or_isGen (p : Phase) : (isIdle p || isGen p) = p.acceptsColour := by
  cases p <;> rfl

/-- A rejection with the code of the first check that fails. -/
theorem CommandOutcome.of_reject {i : Instr} {code : ErrCode} (hc : code ≠ .none) (he : firstError i s = code) :
    CommandOutcome s i (s.reject code) :=
  he ▸ .rejected (he ▸ hc)

/-- The commands of the colour unit have only the state check of 40_color.md R75. -/
theorem firstError_of_isColour {i : Instr} (hi : isColour i = true) (s : State) :
    firstError i s = if s.phase.acceptsColour then .none else .state := by
  rw [← isIdle_or_isGen]
  cases i with
  | rgb | pal | mix | mixr | opac | cread => rfl
  | new | each | gput | pget | rest | clrerr => cases hi

/-- The commands that are accepted in IDLE alone (41_strip.md R100, R101). -/
def needsIdle : Instr → Bool
  | .new | .each | .pget _ | .rest => true
  | .rgb _ | .pal _ _ | .mix _ _ _ | .mixr _ _ _ | .opac _ _ | .cread _ | .gput _ | .clrerr => false

theorem firstError_of_needsIdle {i : Instr} (hi : needsIdle i = true) (s : State) :
    firstError i s = if s.phase = .idle then stripAndOperandCheck i s else .state := by
  cases i with
  | new | each | pget | rest => simp only [firstError, passesStateCheck, isIdle_iff]
  | rgb | pal | mix | mixr | opac | cread | gput | clrerr => cases hi

theorem firstError_gput (ca : BitVec 4) (s : State) :
    firstError (.gput ca) s = if isGen s.phase then .none else .state := rfl

theorem colourCommand_outcome {i : Instr} {e : State} (hi : isColour i = true)
    (heff : s.phase.acceptsColour = true → firstError i s = .none → CommandOutcome s i e)
    (h : colourCommand s e = .next t) : CommandOutcome s i t := by
  have herr := firstError_of_isColour hi s
  rcases colourCommand_next h with ⟨hp, rfl⟩ | ⟨hp, rfl⟩
  · exact heff hp (by simpa [hp] using herr)
  · exact .of_reject (by simp) (by simpa [hp] using herr)

theorem execNew_outcome (h : execNew s = .next t) : CommandOutcome s .new t := by
  have herr := firstError_of_needsIdle (i := .new) rfl s
  unfold execNew at h
  split_ifs at h with hp hc hv <;> cases h
  · exact .of_reject (by simp) (by simpa [hp] using herr)
  · exact .of_reject (by simp) (by simpa [not_not.1 hp, stripAndOperandCheck, configured_iff.1 hc] using herr)
  · have hl := configured_eq_false_iff.1 (Bool.eq_false_iff.2 hc)
    exact .of_reject (by simp) (by simpa [not_not.1 hp, stripAndOperandCheck, hl, hv] using herr)
  · rw [not_or, not_lt] at hv
    exact .new (not_not.1 hp) (configured_eq_false_iff.1 (Bool.eq_false_iff.2 hc)) hv.1 hv.2

/-- The commands of 41_strip.md R100: the state check, then the strip check, then the command's own part. -/
theorem idleStripCommand_outcome {i : Instr} {k : Answer State} (hi : needsIdle i = true)
    (hcfg : s.length = 0#32 → stripAndOperandCheck i s = .nocfg)
    (heff : s.phase = .idle → s.length ≠ 0#32 → k = .next t → CommandOutcome s i t)
    (h : idleStripCommand s k = .next t) : CommandOutcome s i t := by
  have herr := firstError_of_needsIdle hi s
  rcases idleStripCommand_next h with ⟨hp, rfl⟩ | ⟨hp, hl, rfl⟩ | ⟨hp, hl, hk⟩
  · exact .of_reject (by simp) (by simpa [hp] using herr)
  · exact .of_reject (by simp) (by simpa [hp, hcfg hl] using herr)
  · exact heff hp hl hk

theorem execPget_outcome {cd : BitVec 4} (h : execPget cd s = .next t) : CommandOutcome s (.pget cd) t := by
  refine idleStripCommand_outcome rfl (fun hl => if_pos hl) (fun hp hl hk => ?_) h
  have herr := firstError_of_needsIdle (i := .pget cd) rfl s
  split_ifs at hk with hr <;> cases hk
  · exact .of_reject (by simp) (by simpa [hp, hl, hr, stripAndOperandCheck] using herr)
  · exact .register (by simpa [hp, hl, hr, stripAndOperandCheck] using herr) rfl

theorem execGput_outcome {ca : BitVec 4} (h : execGput ca s = .next t) : CommandOutcome s (.gput ca) t := by
  rcases execGput_next h with ⟨hn, rfl⟩ | ⟨g, hp, rfl⟩
  · refine .of_reject (by simp) ?_
    rw [firstError_gput]
    cases hp : s.phase with
    | gen g => exact absurd hp (hn g)
    | idle | tx | restDelay | restLatch => rfl
  · exact .gput hp

/-- Every answer of a command is one of its outcomes. -/
theorem exec_outcome {i : Instr} (h : exec i s = .next t) : CommandOutcome s i t := by
  cases i with
  | rgb | pal | mix | mixr | opac => exact colourCommand_outcome rfl (fun _ he => .register he rfl) h
  | cread => exact colourCommand_outcome rfl (fun hp _ => .cread hp) h
  | new => exact execNew_outcome h
  | each => exact idleStripCommand_outcome rfl (fun hl => if_pos hl) (fun hp hl hk => by cases hk; exact .each hp hl) h
  | gput => exact execGput_outcome h
  | pget => exact execPget_outcome h
  | rest => exact idleStripCommand_outcome rfl (fun hl => if_pos hl) (fun hp hl hk => by cases hk; exact .rest hp hl) h
  | clrerr => cases h; exact .clrerr

/-! A turn of the HOST, and a step -/

/-- `t` differs from `s` at most in the operand registers, ERR, and the HOST's own log and program. -/
def BusOnly (s t : State) : Prop :=
  ∃ a b c e log prog,
    t = { s with opnd0 := a, opnd1 := b, opnd2 := c, err := e, readLog := log, program := prog }

/-- A HOST write located in the window runs the command of its word at CMD, or moves only the bus's part. -/
theorem writeWindow_command {off : Nat} {v : Word} (h : writeWindow off v s = .next t) :
    (∃ i, off = 0 ∧ decode v = .ok i ∧ exec i s = .next t) ∨
      ((off = 0 → (decode v).toOption = none) ∧ BusOnly s t) := by
  by_cases hoff : off = 0
  · subst hoff
    rcases execWord_next h with ⟨i, hd, hi⟩ | ⟨e, hd, rfl⟩
    · exact .inl ⟨i, rfl, hd, hi⟩
    · exact .inr ⟨fun _ => by rw [hd]; rfl, _, _, _, _, _, _, rfl⟩
  · refine .inr ⟨fun h0 => absurd h0 hoff, ?_⟩
    rcases writeWindow_next h with rfl | ⟨-, rfl⟩ | ⟨-, rfl⟩ | ⟨-, rfl⟩ | ⟨h0, -⟩
    · exact ⟨_, _, _, _, _, _, rfl⟩
    · exact ⟨_, _, _, _, _, _, rfl⟩
    · exact ⟨_, _, _, _, _, _, rfl⟩
    · exact ⟨_, _, _, _, _, _, rfl⟩
    · exact absurd h0 hoff

/-- A HOST statement that is no write moves only the bus's part. -/
theorem hostStatement_busOnly {stmt : HostStmt} (hstmt : ∀ addr width v, stmt ≠ .write addr width v)
    (h : hostStatement stmt s = .next t) : BusOnly s t := by
  cases stmt with
  | write addr width v => exact absurd rfl (hstmt addr width v)
  | read =>
    simp only [hostStatement] at h
    split at h <;> cases h
    exact ⟨_, _, _, _, _, _, rfl⟩
  | poll =>
    simp only [hostStatement] at h
    split at h
    · split_ifs at h <;> cases h <;> exact ⟨_, _, _, _, _, _, rfl⟩
    · cases h

/-- The HOST's turn runs the command it writes on the state without that access; any other turn of the HOST moves
only the bus's part. -/
theorem hostStep_command (h : hostStep s = .next t) :
    (∃ i, hostCommand s = some i ∧ exec i { s with program := s.program.tail } = .next t) ∨
      (hostCommand s = none ∧ BusOnly s t) := by
  cases hp : s.program with
  | nil =>
    simp only [hostStep, hp] at h
    cases h
    exact .inr ⟨by simp [hostCommand, hp], _, _, _, _, _, _, rfl⟩
  | cons stmt rest =>
    simp only [hostStep, hp] at h
    cases stmt with
    | write addr width v =>
      simp only [hostStatement] at h
      split at h
      · rename_i off hloc
        obtain ⟨-, rfl, -⟩ := locate_ok hloc
        rcases writeWindow_command h with ⟨i, rfl, hd, hi⟩ | ⟨hd, a, b, c, e, log, prog, rfl⟩
        · exact .inl ⟨i, by simp [hostCommand, hp, hd, Except.toOption], hi⟩
        · exact .inr ⟨by simpa [hostCommand, hp] using hd, _, _, _, _, _, _, rfl⟩
      · cases h
    | read =>
      obtain ⟨a, b, c, e, log, prog, rfl⟩ := hostStatement_busOnly (by simp) h
      exact .inr ⟨by simp [hostCommand, hp], _, _, _, _, _, _, rfl⟩
    | poll =>
      obtain ⟨a, b, c, e, log, prog, rfl⟩ := hostStatement_busOnly (by simp) h
      exact .inr ⟨by simp [hostCommand, hp], _, _, _, _, _, _, rfl⟩

/-- A step is the turn `turnOf` names, taken on the state without that turn. -/
theorem step_turnOf (h : step s = .next t) :
    takeTurn (turnOf s) { s with schedule := s.schedule.tail } = .next t := by
  obtain ⟨-, ⟨hs, ht⟩ | ⟨turn, rest, hs, ht⟩⟩ := step_next h
  · have hself : { s with schedule := s.schedule.tail } = s := by rw [hs, List.tail_nil, ← hs]
    rw [hself, turnOf, hs]
    exact ht
  · simpa [turnOf, hs] using ht

end Sys2Proof.Machine

/-! Colours in range, and the invariant: each update of the state keeps it, hence each turn, hence each step
(10_state.md R18, R20 to R22, R27, R29, R31; 41_strip.md R103). -/

namespace Sys2Proof.Machine
open Sys2Proof.Spec

variable {s t : State}

theorem mean_inRange {x y : Rat} (hx : 0 ≤ x ∧ x ≤ 1) (hy : 0 ≤ y ∧ y ≤ 1) :
    0 ≤ (x + y) / 2 ∧ (x + y) / 2 ≤ 1 := by
  constructor <;> linarith

theorem black_inRange : Colour.black.InRange := by decide

theorem rgbColour_inRange (r g b : Rat) : (rgbColour r g b).InRange :=
  ⟨clamp01_inRange _, clamp01_inRange _, clamp01_inRange _⟩

theorem palette_inRange (k : BitVec 3) : (palette k).InRange := by
  revert k; decide

theorem mixColour_inRange {a b : Colour} (ha : a.InRange) (hb : b.InRange) : (mixColour a b).InRange := by
  obtain ⟨har, hag, hab⟩ := ha
  obtain ⟨hbr, hbg, hbb⟩ := hb
  exact ⟨mean_inRange har hbr, mean_inRange hag hbg, mean_inRange hab hbb⟩

theorem mixRatio_inRange (a b : Colour) (ws wo : Rat) : (mixRatio a b ws wo).InRange := by
  unfold mixRatio
  split
  · exact black_inRange
  · exact ⟨clamp01_inRange _, clamp01_inRange _, clamp01_inRange _⟩

theorem opacity_inRange (a : Colour) (f : Rat) : (opacity a f).InRange :=
  ⟨clamp01_inRange _, clamp01_inRange _, clamp01_inRange _⟩

theorem packColour_top (c : Colour) : (packColour c).extractLsb' 24 8 = 0#8 :=
  calc (packColour c).extractLsb' 24 8
    _ = (0#8 ++ q8 c.r ++ q8 c.g).extractLsb' 16 8 := BitVec.extractLsb'_append_eq_of_le (by decide)
    _ = (0#8 ++ q8 c.r).extractLsb' 8 8 := BitVec.extractLsb'_append_eq_of_le (by decide)
    _ = 0#8 := BitVec.extractLsb'_append_eq_left

namespace Inv

theorem creg_inRange (h : Inv s) (f : BitVec 4) : (s.creg f).InRange := h.cregs_inRange (regIndex f)

theorem pixel_inRange (h : Inv s) (i : Nat) : (s.pixel i).InRange := by
  rw [State.pixel, List.getD_eq_getElem?_getD]
  cases hc : s.buf[i]? with
  | none => exact black_inRange
  | some c => exact h.buf_inRange c (List.mem_of_getElem? hc)

theorem written_inRange (h : Inv s) {i : Instr} {cd : BitVec 4} {c : Colour} (hw : s.written i = some (cd, c)) :
    c.InRange := by
  cases i with
  | rgb => cases hw; exact rgbColour_inRange ..
  | pal => cases hw; exact palette_inRange _
  | mix => cases hw; exact mixColour_inRange (h.creg_inRange _) (h.creg_inRange _)
  | mixr => cases hw; exact mixRatio_inRange ..
  | opac => cases hw; exact opacity_inRange ..
  | pget => cases hw; exact h.pixel_inRange _
  | cread | new | each | gput | rest | clrerr => cases hw

/-- A driven pin stands low between steps, so a bit symbol leaves it as it was. -/
theorem pin_low (h : Inv s) : s.pin.low = s.pin := by
  rw [h.pin_eq]
  split <;> rfl

theorem setCreg (h : Inv s) (f : BitVec 4) {c : Colour} (hc : c.InRange) : Inv (s.setCreg f c) :=
  { h with
    cregs_inRange := fun i => by
      simp only [setCreg_cregs, Fin.getElem_fin, Vector.getElem_set]
      split
      · exact hc
      · exact h.cregs_inRange i }

theorem setPixel (h : Inv s) (i : Nat) {c : Colour} (hc : c.InRange) : Inv (s.setPixel i c) :=
  { h with
    buf_inRange := fun d hd => (List.mem_or_eq_of_mem_set hd).elim (h.buf_inRange d) (· ▸ hc)
    buf_length := by simpa using h.buf_length }

theorem enter (h : Inv s) {p : Phase} (hp : p.fits s.length) : Inv (s.enter p) := { h with phase_fits := hp }

theorem reject (h : Inv s) (code : ErrCode) : Inv (s.reject code) := { h with }

theorem clearError (h : Inv s) : Inv s.clearError := { h with }

theorem construct (h : Inv s) (hp : s.phase = .idle) (h0 : s.opnd0 ≠ 0#32)
    (hmax : s.opnd0.toNat ≤ s.params.maxLeds) : Inv s.construct :=
  { h with
    buf_inRange := fun c hc => List.eq_of_mem_replicate hc ▸ black_inRange
    buf_length := List.length_replicate
    length_le := fun _ => hmax
    phase_fits := by simp [hp, Phase.fits]
    pin_eq := by simp [h0]
    dirty_constructed := fun hd => by simp at hd }

end Inv

theorem word_toNat_pos {w : Word} : 0 < w.toNat ↔ w ≠ 0#32 := (BitVec.toNat_pos w).trans (BitVec.pos_iff_ne_zero w)

theorem afterPixel_fits {length g : Word} (hg : g.toNat < length.toNat) : (afterPixel length g).fits length := by
  rcases afterPixel_cases length g with ⟨hlt, he⟩ | ⟨-, he⟩
  · rw [he]
    have hbound := length.isLt
    have hnat : (g + 1#32).toNat = g.toNat + 1 := BitVec.toNat_add_of_lt (by simpa using by omega)
    simpa only [Phase.fits, hnat] using hlt
  · rw [he]
    simp only [Phase.fits]
    omega

theorem nextCursor_fits {length : Word} {p : Nat} (hp : p < 24 * length.toNat) :
    (if p + 1 = 24 * length.toNat then Phase.idle else .tx (p + 1)).fits length := by
  split
  · trivial
  · exact Nat.lt_of_le_of_ne hp ‹_›

/-- A state with the power-on values of 10_state.md R35 meets the invariant, whatever its parameters and records. -/
theorem Inv.of_powerOn (hc : s.cregs = Vector.replicate 8 Colour.black) (hb : s.buf = []) (hl : s.length = 0#32)
    (hp : s.phase = .idle) (hpin : s.pin = .released) (hd : s.wireDirty = false) (hr : s.result = 0#32) : Inv s where
  cregs_inRange i := by simpa [hc] using black_inRange
  buf_inRange c hmem := by simp [hb] at hmem
  buf_length := by simp [hb, hl]
  length_le h0 := absurd hl h0
  phase_fits := by simp [hp, Phase.fits]
  pin_eq := by simp [hpin, hl]
  dirty_constructed h := by simp [hd] at h
  result_top := by simp [hr]

theorem inv_powerOn (p : Params) : Inv (State.powerOn p) := .of_powerOn rfl rfl rfl rfl rfl rfl rfl

theorem inv_resetInput (s : State) : Inv s.resetInput := .of_powerOn rfl rfl rfl rfl rfl rfl rfl

namespace Inv

theorem of_busOnly (h : Inv s) (hb : BusOnly s t) : Inv t := by
  obtain ⟨a, b, c, e, log, prog, rfl⟩ := hb
  exact { h with }

theorem of_commandOutcome {i : Instr} (h : Inv s) (ho : CommandOutcome s i t) : Inv t := by
  cases ho with
  | rejected => exact h.reject _
  | register _ hw => exact h.setCreg _ (h.written_inRange hw)
  | cread => exact { h with result_top := packColour_top _ }
  | new hp _ h0 hmax => exact h.construct hp h0 hmax
  | each hp hl => exact h.enter (word_toNat_pos.2 hl)
  | @gput ca g hp =>
    have hg : g.toNat < s.length.toNat := by simpa [hp, Phase.fits] using h.phase_fits
    exact (h.setPixel _ (h.creg_inRange ca)).enter (afterPixel_fits hg)
  | rest hp hl => exact h.enter hl
  | clrerr => exact h.clearError

theorem of_hostStep (h : Inv s) (ht : hostStep s = .next t) : Inv t := by
  rcases hostStep_command ht with ⟨i, -, hi⟩ | ⟨-, hb⟩
  · have hrest : Inv { s with program := s.program.tail } := { h with }
    exact hrest.of_commandOutcome (exec_outcome hi)
  · exact h.of_busOnly hb

theorem of_transmitStep {p : Nat} (h : Inv s) (hp : s.phase = .tx p) (ht : transmitStep p s = .next t) : Inv t := by
  obtain ⟨b, -, rfl⟩ := transmitStep_next ht
  have hlt : p < 24 * s.length.toNat := by simpa [hp, Phase.fits] using h.phase_fits
  exact
    { h with
      phase_fits := nextCursor_fits hlt
      pin_eq := h.pin_low.trans h.pin_eq
      dirty_constructed := fun _ => word_toNat_pos.1 (Nat.pos_of_mul_pos_left (Nat.zero_lt_of_lt hlt)) }

theorem of_engineStep (h : Inv s) (ht : engineStep s = .next t) : Inv t := by
  rcases engineStep_next ht with ⟨-, rfl⟩ | ⟨p, hp, ht⟩ | ⟨us, hp, rfl⟩ | ⟨us, hp, rfl⟩
  · exact h
  · exact h.of_transmitStep hp ht
  · have hl : s.length ≠ 0#32 := by simpa [hp, Phase.fits] using h.phase_fits
    exact h.enter (p := .restLatch us) hl
  · exact { h with phase_fits := trivial, dirty_constructed := fun hd => by simp at hd }

theorem of_takeTurn {turn : Turn} (h : Inv s) (ht : takeTurn turn s = .next t) : Inv t := by
  cases turn with
  | host => exact h.of_hostStep ht
  | engine => exact h.of_engineStep ht
  | reset => cases ht; exact inv_resetInput s

theorem of_step (h : Inv s) (ht : step s = .next t) : Inv t := by
  have hrest : Inv { s with schedule := s.schedule.tail } := { h with }
  exact hrest.of_takeTurn (step_turnOf ht)

end Inv

/-- Settles O45: `CommandOutcome` says what a command can do, and each of its updates keeps the invariant, as do the
engine's steps, the bus and the reset input. -/
theorem stepKeepsInvariant : Obligations.StepKeepsInvariant := fun _ _ h ht => h.of_step ht

/-- Settles O44: the power-on values give every field the invariant speaks of. -/
theorem powerOnMeetsInvariant : Obligations.PowerOnMeetsInvariant := inv_powerOn

end Sys2Proof.Machine

/-! What each turn leaves of the strip, the wire and the registers, and where it takes STATE (10_state.md R15 to R30,
R32); the layout of STATUS (R24); the word placed for the next step (log 4). -/

namespace Sys2Proof.Machine
open Sys2Proof.Spec

variable {s t : State}

/-! What a turn leaves of the strip and the wire -/

/-- The wire trace stays or gains one symbol. -/
def WireGrows (s t : State) : Prop := t.wire = s.wire ∨ ∃ sym, t.wire = s.wire ++ [sym]

/-- `t` has the parameters of `s`, its LENGTH once a strip exists, and its wire trace or one symbol more. -/
structure KeepsStrip (s t : State) : Prop where
  params_eq : t.params = s.params
  length_eq : s.length ≠ 0#32 → t.length = s.length
  wire_grows : WireGrows s t

theorem CommandOutcome.keepsStrip {i : Instr} (h : CommandOutcome s i t) : KeepsStrip s t := by
  cases h with
  | new _ hl => exact ⟨rfl, fun hne => absurd hl hne, .inr ⟨_, rfl⟩⟩
  | rejected | register | cread | each | gput | rest | clrerr => exact ⟨rfl, fun _ => rfl, .inl rfl⟩

theorem hostStep_keepsStrip (h : hostStep s = .next t) : KeepsStrip s t := by
  rcases hostStep_command h with ⟨i, -, hi⟩ | ⟨-, a, b, c, e, log, prog, rfl⟩
  · obtain ⟨hp, hl, hw⟩ := (exec_outcome hi).keepsStrip
    exact ⟨hp, hl, hw⟩
  · exact ⟨rfl, fun _ => rfl, .inl rfl⟩

/-- The engine's turn moves only STATE, the pin, `wire_dirty`, the wire trace and its marks. -/
theorem engineStep_moves (h : engineStep s = .next t) :
    ∃ p pin dirty wire marks,
      t = { s with phase := p, pin := pin, wireDirty := dirty, wire := wire, undelimited := marks } ∧
        WireGrows s t ∧ p = stateAfterEngine s.length s.phase := by
  rcases engineStep_next h with ⟨hb, rfl⟩ | ⟨p, hp, ht⟩ | ⟨us, hp, rfl⟩ | ⟨us, hp, rfl⟩
  · refine ⟨_, _, _, _, _, rfl, .inl rfl, ?_⟩
    cases hp : t.phase with
    | idle | gen => rfl
    | tx | restDelay | restLatch => simp [hp, Phase.busy] at hb
  · obtain ⟨b, -, rfl⟩ := transmitStep_next ht
    exact ⟨_, _, _, _, _, rfl, .inr ⟨_, rfl⟩, by rw [hp]; rfl⟩
  · exact ⟨_, _, _, _, _, rfl, .inl rfl, by rw [hp]; rfl⟩
  · exact ⟨_, _, _, _, _, rfl, .inr ⟨_, rfl⟩, by rw [hp]; rfl⟩

theorem engineStep_keepsStrip (h : engineStep s = .next t) : KeepsStrip s t := by
  obtain ⟨p, pin, dirty, wire, marks, rfl, hw, -⟩ := engineStep_moves h
  exact ⟨rfl, fun _ => rfl, hw⟩

/-- In IDLE and GEN the engine's turn changes nothing (10_state.md R15, 41_strip.md R105). -/
theorem engineStep_idleOrGen (hs : IdleOrGen s) : engineStep s = .next s := by
  rcases hs with hp | ⟨g, hp⟩ <;> simp [engineStep, hp]

theorem resetInput_wireGrows (s : State) : WireGrows s s.resetInput := by
  rw [WireGrows, resetInput_wire]
  split
  · exact .inl rfl
  · exact .inr ⟨_, rfl⟩

theorem takeTurn_keepsStrip {turn : Turn} (hr : turn ≠ .reset) (h : takeTurn turn s = .next t) : KeepsStrip s t := by
  cases turn with
  | host => exact hostStep_keepsStrip h
  | engine => exact engineStep_keepsStrip h
  | reset => exact absurd rfl hr

theorem step_keepsStrip (h : step s = .next t) (hr : turnOf s ≠ .reset) : KeepsStrip s t := by
  obtain ⟨hp, hl, hw⟩ := takeTurn_keepsStrip hr (step_turnOf h)
  exact ⟨hp, hl, hw⟩

theorem step_reset (h : step s = .next t) (hr : turnOf s = .reset) :
    t = { s with schedule := s.schedule.tail }.resetInput := by
  have ht := step_turnOf h
  rw [hr] at ht
  cases ht
  rfl

/-- Settles O48: a turn other than a reset leaves LENGTH, and the invariant after it ties the pin and the buffer to
LENGTH. -/
theorem stripHoldsUntilReset : Obligations.StripHoldsUntilReset := by
  intro s t hinv h
  have hinv' := hinv.of_step h
  by_cases hr : turnOf s = .reset
  · exact ⟨by rw [step_reset h hr]; rfl, fun _ hne => absurd hr hne⟩
  · have hk := step_keepsStrip h hr
    refine ⟨hk.params_eq, fun hl _ => ?_⟩
    have hlen := hk.length_eq hl
    exact ⟨hlen, by rw [hinv'.pin_eq, hlen, if_neg hl], by rw [hinv'.buf_length, hinv.buf_length, hlen]⟩

/-- Settles O50: a reset appends RELEASE at most, every other turn one symbol at most. -/
theorem wireTraceOnlyGrows : Obligations.WireTraceOnlyGrows := by
  intro s t h
  by_cases hr : turnOf s = .reset
  · rw [step_reset h hr]
    exact resetInput_wireGrows { s with schedule := s.schedule.tail }
  · exact (step_keepsStrip h hr).wire_grows

/-! STATE, by the table of 10_state.md R23 -/

/-- The table of 10_state.md R23 moves STATE only for EACH and REST in IDLE with a strip and for GPUT in GEN. -/
theorem stateAfterHost_eq_self {length opnd0 : Word} {c : Option Instr} {p : Phase}
    (hidle : c = some .each ∨ c = some .rest → p = .idle → length = 0#32)
    (hgput : ∀ ca, c = some (.gput ca) → ∀ g, p ≠ .gen g) : stateAfterHost length opnd0 c p = p := by
  cases p with
  | idle =>
    rw [stateAfterHost, if_neg fun h => h.2 (hidle (.inl h.1) rfl), if_neg fun h => h.2 (hidle (.inr h.1) rfl)]
  | gen g =>
    simp only [stateAfterHost]
    split
    · exact absurd rfl (hgput _ rfl g)
    · rfl
  | tx | restDelay | restLatch => rfl

theorem CommandOutcome.phase_eq {i : Instr} (h : CommandOutcome s i t) :
    t.phase = stateAfterHost s.length s.opnd0 (some i) s.phase := by
  cases h with
  | rejected herr =>
    rw [reject_phase]
    refine (stateAfterHost_eq_self (fun hi hp => ?_) (fun ca hi g hp => ?_)).symm
    · by_contra hl
      rcases hi with hi | hi <;> cases hi <;>
        exact herr (by rw [firstError_of_needsIdle rfl, if_pos hp]; exact if_neg hl)
    · cases hi
      exact herr (by simp [firstError_gput, isGen, hp])
  | register _ hw =>
    have hwrites : ∀ {j : Instr}, some i = some j → s.written j ≠ none := by
      rintro j ⟨⟩ hn
      rw [hn] at hw
      cases hw
    exact (stateAfterHost_eq_self (fun hi _ => (hi.elim hwrites hwrites rfl).elim)
      (fun ca hi => (hwrites hi rfl).elim)).symm
  | cread | new | clrerr => exact (stateAfterHost_eq_self (by simp) (by simp)).symm
  | each hp hl => simp [hp, hl, stateAfterHost]
  | rest hp hl => simp [hp, hl, stateAfterHost]
  | gput hp => rw [hp]; rfl

theorem hostStep_phase (h : hostStep s = .next t) :
    t.phase = stateAfterHost s.length s.opnd0 (hostCommand s) s.phase := by
  rcases hostStep_command h with ⟨i, hc, hi⟩ | ⟨hc, a, b, c, e, log, prog, rfl⟩
  · rw [hc]
    exact (exec_outcome hi).phase_eq
  · rw [hc]
    exact (stateAfterHost_eq_self (by simp) (by simp)).symm

/-- Settles O47, turn by turn: a reset, the command the HOST writes, the engine's own step. -/
theorem stateChangesAsListed : Obligations.StateChangesAsListed := by
  intro s t h
  have ht := step_turnOf h
  refine ⟨fun hturn => ?_, fun hturn => ?_, fun hturn => ?_⟩
  · rw [step_reset h hturn, resetInput_phase]
  · rw [hturn] at ht
    exact hostStep_phase (s := { s with schedule := s.schedule.tail }) ht
  · rw [hturn] at ht
    obtain ⟨p, pin, dirty, wire, marks, rfl, -, hp⟩ := engineStep_moves ht
    refine ⟨hp, fun hs => ?_⟩
    have hsame := ht.symm.trans (engineStep_idleOrGen (s := { s with schedule := s.schedule.tail }) hs)
    simpa using hsame

/-! Who writes the registers -/

theorem CommandOutcome.opnds_eq {i : Instr} (h : CommandOutcome s i t) :
    t.opnd0 = s.opnd0 ∧ t.opnd1 = s.opnd1 ∧ t.opnd2 = s.opnd2 := by
  cases h <;> exact ⟨rfl, rfl, rfl⟩

theorem CommandOutcome.cread_of_result_ne {i : Instr} (h : CommandOutcome s i t) (hne : t.result ≠ s.result) :
    ∃ ca, i = .cread ca := by
  cases h with
  | cread => exact ⟨_, rfl⟩
  | rejected | register | new | each | gput | rest | clrerr => exact absurd rfl hne

theorem CommandOutcome.destination_of_creg_ne {i : Instr} (h : CommandOutcome s i t) {r : Fin 8}
    (hne : t.cregs[r] ≠ s.cregs[r]) : ∃ cd, destination i = some cd ∧ regIndex cd = r := by
  cases h with
  | @register i cd c _ hw =>
    refine ⟨cd, by rw [destination_eq_written s, hw]; rfl, ?_⟩
    by_contra hr
    exact hne (Vector.getElem_set_ne (regIndex cd).isLt r.isLt (Fin.val_ne_of_ne hr))
  | rejected | cread | new | each | gput | rest | clrerr => exact absurd rfl hne

/-- Settles O49: the engine's turn by the fields it moves, a command by its outcome. -/
theorem registerWriters : Obligations.RegisterWriters := by
  intro s t
  constructor
  · intro h
    obtain ⟨p, pin, dirty, wire, marks, rfl, -⟩ := engineStep_moves h
    exact ⟨rfl, rfl, rfl, rfl, rfl, rfl, rfl, rfl⟩
  · intro w h
    rcases execWord_next h with ⟨i, hd, hi⟩ | ⟨e, -, rfl⟩
    · have ho := exec_outcome hi
      refine ⟨ho.opnds_eq, fun hne => ?_, fun r hne => ?_⟩
      · obtain ⟨ca, rfl⟩ := ho.cread_of_result_ne hne
        exact ⟨ca, hd⟩
      · obtain ⟨cd, hdest, hreg⟩ := ho.destination_of_creg_ne hne
        exact ⟨i, cd, hd, hdest, hreg⟩
    · exact ⟨⟨rfl, rfl, rfl⟩, fun hne => absurd rfl hne, fun _ hne => absurd rfl hne⟩

/-! STATUS -/

theorem status_state (s : State) : s.status.extractLsb' 0 3 = s.phase.code := BitVec.extractLsb'_append_eq_right

theorem status_cfg (s : State) : s.status[3] = s.configured := by
  rw [← BitVec.getLsbD_eq_getElem]
  simp only [State.status, BitVec.getLsbD_append]
  simp

theorem status_err (s : State) : s.status.extractLsb' 4 4 = s.err.code :=
  calc s.status.extractLsb' 4 4
    _ = (0#24 ++ s.err.code ++ BitVec.ofBool s.configured).extractLsb' 1 4 :=
      BitVec.extractLsb'_append_eq_of_le (by decide)
    _ = (0#24 ++ s.err.code).extractLsb' 0 4 := BitVec.extractLsb'_append_eq_of_le (by decide)
    _ = s.err.code := BitVec.extractLsb'_append_eq_right

theorem status_zeros (s : State) : s.status.extractLsb' 8 24 = 0#24 :=
  calc s.status.extractLsb' 8 24
    _ = (0#24 ++ s.err.code ++ BitVec.ofBool s.configured).extractLsb' 5 24 :=
      BitVec.extractLsb'_append_eq_of_le (by decide)
    _ = (0#24 ++ s.err.code).extractLsb' 4 24 := BitVec.extractLsb'_append_eq_of_le (by decide)
    _ = 0#24 := BitVec.extractLsb'_append_eq_left

theorem status_powerOn (p : Params) : (State.powerOn p).status = 0#32 := by
  change (0#24 ++ 0#4 ++ 0#1 ++ 0#3 : Word) = 0#32
  decide

/-- Settles O35, field by field of the STATUS word. -/
theorem statusLayout : Obligations.StatusLayout := by
  refine ⟨⟨rfl, fun _ => rfl, fun _ => rfl, fun _ => rfl, fun _ => rfl⟩,
    ⟨rfl, rfl, rfl, rfl, rfl, rfl⟩, fun s => ?_⟩
  have hcfg : s.status[3] = true ↔ 1 ≤ s.length.toNat := by
    rw [status_cfg, configured_iff]
    exact word_toNat_pos.symm
  exact ⟨status_state s, hcfg, status_err s, status_zeros s, fun _ => rfl, status_powerOn⟩

/-! A word placed for the next step -/

theorem decode_of_decodeTableWord {nbits w : Nat} {i : Instr} (h : decodeTableWord nbits w = some i) :
    decode (BitVec.ofNat 32 (w % 2 ^ nbits)) = .ok i := by
  unfold decodeTableWord at h
  split at h
  · cases hd : decode (BitVec.ofNat 32 (w % 2 ^ nbits)) with
    | ok j => simpa [hd, Except.toOption] using h
    | error e => simp [hd, Except.toOption] at h
  · cases h

theorem execWord_of_decode {w : Word} {i : Instr} (h : decode w = .ok i) (s : State) : execWord w s = exec i s := by
  simp [execWord, h]

/-- A HOST turn whose next access writes the word `w` to CMD runs `w`. -/
theorem hostStep_of_cmd_write {w : Word} {rest : List HostStmt}
    (hp : s.program = .write s.params.engineBase 4 w :: rest) :
    hostStep s = execWord w { s with program := rest } := by
  have hloc : locate s.params s.params.engineBase 4 = .ok 0 := locate_window s.params (off := 0) (by decide) rfl
  simp [hostStep, hp, hostStatement, hloc, writeWindow, windowReg]

/-- Settles O43: the HOST's turn takes the write placed for it, at offset 0 of the window. -/
theorem fetchWordRunsNext : Obligations.FetchWordRunsNext := by
  intro s nbits w i hlegal hw
  rw [step_of_turn (s := s.withFetchWord nbits w) hlegal rfl]
  exact (hostStep_of_cmd_write (s := { s.withFetchWord nbits w with schedule := s.schedule }) rfl).trans
    (execWord_of_decode (decode_of_decodeTableWord hw) s)

end Sys2Proof.Machine

/-! The register window and the bus (20_memory.md R41 to R52): what a read and a write of each offset do, a read and a
CMD write as the HOST's turn, and the bytes of a register and of a command word (R45). -/

namespace Sys2Proof.Machine
open Sys2Proof.Spec

variable {s t : State}

/-! Reads of the window -/

theorem windowReg_of_reserved {off : Nat} (h : 0x20 ≤ off) : windowReg off = .reserved := by
  unfold windowReg
  split
  case h_9 => rfl
  all_goals omega

theorem readWindow_of_reserved (s : State) {off : Nat} (h : 0x20 ≤ off) : s.readWindow off = 0#32 := by
  rw [State.readWindow, windowReg_of_reserved h]

theorem gindex_of_gen {i : Word} (h : s.phase = .gen i) : s.gindex = i := by
  rw [State.gindex, h]

theorem gindex_of_not_gen (h : ∀ i, s.phase ≠ .gen i) : s.gindex = 0#32 := by
  unfold State.gindex
  split
  · exact absurd ‹_› (h _)
  · rfl

/-- Settles O36: each named offset reads its register by the map itself, GINDEX by the phase, the rest as reserved. -/
theorem windowReadMap : Obligations.WindowReadMap := fun s =>
  ⟨rfl, rfl, rfl, rfl, rfl, rfl, rfl, fun _ => gindex_of_gen, gindex_of_not_gen,
    fun _ h _ => readWindow_of_reserved s h⟩

/-- A HOST turn whose next access is an aligned read of the window only logs the value (20_memory.md R47). -/
theorem hostStep_of_read {off : Nat} {rest : List HostStmt} (hlt : off < 0x40) (hal : off % 4 = 0)
    (hp : s.program = .read (s.params.engineBase + off) 4 :: rest) :
    hostStep s = .next
      { s with program := rest, readLog := s.readLog ++ [⟨off, s.readWindow off⟩] } := by
  simp only [hostStep, hp, hostStatement, locate_window s.params hlt hal]
  rfl

/-- Settles O37: a read is the HOST's turn that logs a value; the window shows neither the log nor the
program, so the second read logs the same value. -/
theorem readsHaveNoSideEffect : Obligations.ReadsHaveNoSideEffect := by
  intro s off rest hlt hal
  refine ⟨hostStep_of_read hlt hal, fun hp => ⟨_, hostStep_of_read hlt hal hp, ?_⟩⟩
  rw [hostStep_of_read hlt hal rfl, List.append_assoc]
  rfl

/-! Writes of the window -/

theorem writeWindow_of_reserved (s : State) (v : Word) {off : Nat} (h : 0x20 ≤ off) :
    writeWindow off v s = .next s := by
  rw [writeWindow, windowReg_of_reserved h]

/-- An operand register holds the word stored there, and storing it again changes nothing (20_memory.md R50). -/
theorem writeWindow_operand_twice {v : Word} {off : Nat} (hoff : off = 0x08 ∨ off = 0x0C ∨ off = 0x10)
    (h : writeWindow off v s = .next t) : writeWindow off v t = .next t ∧ t.readWindow off = v := by
  rcases hoff with rfl | rfl | rfl <;> cases h <;> exact ⟨rfl, rfl⟩

/-- Settles O38: the read-only and the reserved offsets, then the three operand registers. -/
theorem windowWritesByRegister : Obligations.WindowWritesByRegister := by
  refine ⟨fun s v off hoff => ⟨?_, readWindow_of_reserved s⟩,
    fun s v => ⟨rfl, rfl, rfl, fun off t => writeWindow_operand_twice⟩⟩
  rcases hoff with rfl | rfl | rfl | rfl | ⟨h, -⟩
  · rfl
  · rfl
  · rfl
  · rfl
  · exact writeWindow_of_reserved s v h

/-! A step that writes CMD -/

theorem execWord_of_decode_error {w : Word} {e : DecodeError} (h : decode w = .error e) (s : State) :
    execWord w s = .next (s.reject .illegal) := by
  rw [execWord, h]

/-- With no order given, the HOST moves in IDLE and GEN (log 3). -/
theorem fairTurn_of_idleOrGen (h : IdleOrGen s) : s.fairTurn = .host := by
  have hb : s.phase.busy = false := by
    rw [busy_eq_not_acceptsColour, acceptsColour_iff.2 h, Bool.not_true]
  rw [State.fairTurn, hb]
  rfl

/-- Settles O42: the step is the HOST's turn, given or fair, and its access writes the word to CMD. -/
theorem stepRunsWrittenCommand : Obligations.StepRunsWrittenCommand := by
  intro s w rest hlegal hp
  have given : ∀ turns, s.schedule = .host :: turns →
      step s = execWord w { s with schedule := turns, program := rest } := fun turns hs =>
    (step_of_turn hlegal hs).trans (hostStep_of_cmd_write (s := { s with schedule := turns }) hp)
  have fair : s.schedule = [] → IdleOrGen s → step s = execWord w { s with program := rest } := fun hs hph => by
    rw [step_of_no_turn hlegal hs, fairTurn_of_idleOrGen hph]
    exact hostStep_of_cmd_write hp
  exact ⟨fun turns i hs hd => (given turns hs).trans (execWord_of_decode hd _),
    fun turns e hs hd => (given turns hs).trans (execWord_of_decode_error hd _),
    fun i hs hph hd => (fair hs hph).trans (execWord_of_decode hd _)⟩

/-! Bytes -/

/-- A word is its four bytes, the first carrying bits 7:0 (20_memory.md R45). -/
theorem wordOfBytes_extractLsb' (w : Word) :
    wordOfBytes (w.extractLsb' 0 8) (w.extractLsb' 8 8) (w.extractLsb' 16 8) (w.extractLsb' 24 8) = w := by
  have high : w.extractLsb' 24 8 ++ w.extractLsb' 16 8 = w.extractLsb' 16 16 :=
    BitVec.extractLsb'_append_extractLsb'_eq_extractLsb' rfl
  have upper : w.extractLsb' 16 16 ++ w.extractLsb' 8 8 = w.extractLsb' 8 24 :=
    BitVec.extractLsb'_append_extractLsb'_eq_extractLsb' rfl
  rw [wordOfBytes, high, upper]
  exact BitVec.extractLsb'_append_extractLsb'

theorem windowByte_add (s : State) {off k : Nat} (hal : off % 4 = 0) (hk : k < 4) :
    s.windowByte (off + k) = (s.readWindow off).extractLsb' (8 * k) 8 := by
  have hreg : 4 * ((off + k) / 4) = off := by omega
  have hbyte : (off + k) % 4 = k := by omega
  rw [State.windowByte, hreg, hbyte]

theorem encode_fields (i : Instr) : Laws.EncodeFields.Statement i := by
  cases i <;> exact Laws.EncodeFields.of_assembleFields rfl

/-- The decoder's row for the opcode of a well-formed command accepts its fields (30_encoding.md R59, R63). -/
theorem decode_encode {i : Instr} (h : i.wellFormed = true) : decode (encode i) = .ok i := by
  obtain ⟨hop, hcd, hca, hcb, himm⟩ := encode_fields i
  rw [decode_by_fields, hop, hcd, hca, hcb, himm]
  cases i <;> simp_all [Instr.wellFormed, Instr.opcode, Laws.EncodeFields.fieldsOf]

theorem decodeBytes_of_decode {w : Word} {i : Instr} (h : decode w = .ok i) (rest : List Byte) :
    decodeBytes (w.extractLsb' 0 8 :: w.extractLsb' 8 8 :: w.extractLsb' 16 8 :: w.extractLsb' 24 8 :: rest) =
      .ok (i, rest) := by
  rw [decodeBytes, wordOfBytes_extractLsb', h]

/-- Settles O6: four consecutive bytes of the window are the four bytes of its word, and those of a command word are
put together again before it is decoded. -/
theorem bytesAreLittleEndian : Obligations.BytesAreLittleEndian := by
  refine ⟨fun s off hal => ?_, fun i rest h => decodeBytes_of_decode (decode_encode h) rest⟩
  have byte : ∀ k, k < 4 → s.windowByte (off + k) = (s.readWindow off).extractLsb' (8 * k) 8 :=
    fun k hk => windowByte_add s hal hk
  have byte0 : s.windowByte off = (s.readWindow off).extractLsb' 0 8 := byte 0 (by decide)
  refine ⟨byte, ?_⟩
  rw [byte0, byte 1 (by decide), byte 2 (by decide), byte 3 (by decide)]
  exact wordOfBytes_extractLsb' _

end Sys2Proof.Machine

/-! The opcode table and the encoding (30_encoding.md R58 to R66): a word has at most one row, a word that decodes is
the encoding of its command, and a word without a row is rejected ILLEGAL. -/

namespace Sys2Proof.Machine

/-! Decode and encode -/

/-- Settles O1, by the decoder's reading of the five fields of an encoded command. -/
theorem decodeOfEncode : Obligations.DecodeOfEncode := fun _ h => decode_encode h

/-- A word with the fields of a command is the word of that command (30_encoding.md R59). -/
theorem encode_eq_of_fields {w : Word} {i : Instr} (hop : opcodeField w = i.opcode)
    (hf : (cdField w, caField w, cbField w, immField w) = Laws.EncodeFields.fieldsOf i) : encode i = w := by
  obtain ⟨eop, ecd, eca, ecb, eimm⟩ := encode_fields i
  rw [← assembleFields_of_fields (encode i), eop, ecd, eca, ecb, eimm, ← hf, ← hop]
  exact assembleFields_of_fields w

/-- Settles O2: each row asks for the register and immediate checks of its command and for zeros elsewhere, so the
fields of the word are those of the command. -/
theorem encodeOfDecode : Obligations.EncodeOfDecode := by
  intro w i h
  rw [decode_by_fields] at h
  iterate 12
    obtain ⟨⟨hop, hd, ha, hb, hm⟩, ⟨⟩⟩ | ⟨-, h⟩ := ite_eq_iff.1 h
    · exact ⟨by simp [Instr.wellFormed, hd, ha, hb, hm],
        encode_eq_of_fields hop (by simp [Laws.EncodeFields.fieldsOf, hd, ha, hb, hm])⟩
  split at h <;> cases h

/-! Rows -/

/-- Every row reads the whole opcode of a word, whose opcode is then the row's. -/
theorem opcodeField_of_matches {row : OpcodeRow} {w : Word} (hrow : row ∈ opcodeTable) (h : row.matches w = true) :
    opcodeField w = opcodeField row.pattern := by
  have hmask : ∀ row ∈ opcodeTable, opcodeField row.mask = 0xFF#8 := by decide
  obtain ⟨hop, -⟩ := (matches_iff_fields row w).1 h
  rwa [hmask row hrow, byte_and_ones] at hop

/-- The rows of the table have different opcodes, so a word has at most one row. -/
theorem row_eq_of_matches {row row' : OpcodeRow} {w : Word} (hrow : row ∈ opcodeTable) (hrow' : row' ∈ opcodeTable)
    (h : row.matches w = true) (h' : row'.matches w = true) : row = row' := by
  have hnodup : (opcodeTable.map fun row => opcodeField row.pattern).Nodup := by decide
  refine List.inj_on_of_nodup_map hnodup hrow hrow' ?_
  rw [← opcodeField_of_matches hrow h, opcodeField_of_matches hrow' h']

theorem decode_of_find {row : OpcodeRow} {w : Word}
    (h : opcodeTable.find? (fun row => row.matches w) = some row) : decode w = .ok (row.build w) := by
  rw [decode, h]

theorem decode_of_matches {row : OpcodeRow} {w : Word} (hrow : row ∈ opcodeTable) (h : row.matches w = true) :
    decode w = .ok (row.build w) := by
  have hsome : (opcodeTable.find? fun row => row.matches w).isSome := List.find?_isSome.2 ⟨row, hrow, h⟩
  obtain ⟨found, hfound⟩ := Option.isSome_iff_exists.1 hsome
  have hm : found.matches w = true := List.find?_some (p := fun row : OpcodeRow => row.matches w) hfound
  rw [decode_of_find hfound, row_eq_of_matches (List.mem_of_find?_eq_some hfound) hrow hm h]

/-- Settles O3: a word has at most one row, and decodes by it. -/
theorem opcodeRowsNeverOverlap : Obligations.OpcodeRowsNeverOverlap := fun _ _ hrow _ hrow' h h' =>
  ⟨congrArg OpcodeRow.pattern (row_eq_of_matches hrow hrow' h h'), decode_of_matches hrow h⟩

/-- A word that matches no row of the table is rejected ILLEGAL (30_encoding.md R64). -/
theorem execWord_of_no_row {w : Word} (h : ∀ row ∈ opcodeTable, row.matches w ≠ true) (s : State) :
    execWord w s = .next (s.reject .illegal) := by
  have hnone : opcodeTable.find? (fun row => row.matches w) = none := List.find?_eq_none.2 h
  have herr : decode w = if opcodeListed w then .error .mustBeZero else .error .reservedOpcode := by
    rw [decode, hnone]
  split_ifs at herr <;> exact execWord_of_decode_error herr s

/-- The opcodes of 30_encoding.md R65 that no row has. -/
def ReservedOpcode (o : Byte) : Prop :=
  o ≤ 0x0F#8 ∨ (0x16#8 ≤ o ∧ o ≤ 0x1F#8) ∨ (0x25#8 ≤ o ∧ o ≤ 0x3E#8) ∨ 0x40#8 ≤ o

theorem not_reservedOpcode_of_mem {row : OpcodeRow} (hrow : row ∈ opcodeTable) :
    ¬ ReservedOpcode (opcodeField row.pattern) := by
  unfold ReservedOpcode
  revert row
  decide

theorem execWord_of_reservedOpcode {w : Word} (h : ReservedOpcode (opcodeField w)) (s : State) :
    execWord w s = .next (s.reject .illegal) :=
  execWord_of_no_row (fun _ hrow hm => not_reservedOpcode_of_mem hrow (opcodeField_of_matches hrow hm ▸ h)) s

/-- Settles O4: no row has a reserved opcode, and the zero word's opcode is reserved. -/
theorem reservedOpcodesAreIllegal : Obligations.ReservedOpcodesAreIllegal :=
  ⟨fun _ s h => execWord_of_reservedOpcode h s, execWord_of_reservedOpcode (.inl (by decide))⟩

/-- A row that reads the bits `z` and wants them zero matches no word with one of them set. -/
theorem and_eq_zero_of_matches {row : OpcodeRow} {w z : Word} (hread : row.mask &&& z = z)
    (hzero : row.pattern &&& z = 0#32) (h : row.matches w = true) : w &&& z = 0#32 := by
  have hm : w &&& row.mask = row.pattern := by simpa [OpcodeRow.matches] using h
  rw [← hread, ← BitVec.and_assoc, hm, hzero]

/-- Settles O5: the row with the word's opcode reads the bits that must be zero, and wants them zero. -/
theorem mustBeZeroBitsAreIllegal : Obligations.MustBeZeroBitsAreIllegal := by
  intro entry hentry w s hop hbits
  have hrows : ∀ row ∈ opcodeTable, opcodeField row.pattern = entry.1 →
      row.mask &&& entry.2 = entry.2 ∧ row.pattern &&& entry.2 = 0#32 := by
    clear hop hbits
    revert entry
    simp [opcodeTable, opcodeField]
  refine execWord_of_no_row (fun row hrow hm => ?_) s
  obtain ⟨hread, hzero⟩ := hrows row hrow ((opcodeField_of_matches hrow hm).symm.trans hop)
  exact hbits (and_eq_zero_of_matches hread hzero hm)

end Sys2Proof.Machine

/-! How HOST programs are written (30_encoding.md R69, R70, R72): what an assembler accepts and the word it gives, and
the poll as the HOST's turn. -/

namespace Sys2Proof.Machine

/-! Commands in an assembler -/

theorem asmReg_creg {n : Nat} (h : n < 8) : asmReg (.creg n) = some (BitVec.ofNat 4 n) := if_pos h

theorem asmIndex_index {k : Nat} (h : k < 8) : asmIndex (.index k) = some (BitVec.ofNat 12 k) := if_pos h

theorem asmReg_creg_of_le {n : Nat} (h : 8 ≤ n) : asmReg (.creg n) = none := if_neg (by omega)

theorem asmIndex_index_of_le {k : Nat} (h : 8 ≤ k) : asmIndex (.index k) = none := if_neg (by omega)

/-- An assembler refuses a command with an operand that is neither a register nor a palette index. -/
theorem asmCommand_of_refused_operand {m : String} {ops : List AsmOperand} {o : AsmOperand} (hreg : asmReg o = none)
    (hidx : asmIndex o = none) (ho : o ∈ ops) : asmCommand m ops = none := by
  -- the rows of the table in order, by how many operands they take; the last case is a line that fits no row
  unfold asmCommand
  split
  case h_13 => rfl
  all_goals simp only [List.mem_cons, List.not_mem_nil, or_false] at ho
  case h_1 | h_6 | h_9 | h_10 => simp [← ho, hreg]
  case h_2 | h_5 => rcases ho with rfl | rfl <;> simp [hreg, hidx]
  case h_3 | h_4 => rcases ho with rfl | rfl | rfl <;> simp [hreg]

theorem asmCommand_of_unlisted_mnemonic {m : String} (ops : List AsmOperand)
    (hm : m ∉ ["rgb", "pal", "mix", "mixr", "opac", "cread", "new", "each", "gput", "pget", "rest", "clrerr"]) :
    asmCommand m ops = none := by
  unfold asmCommand
  split
  case h_13 => rfl
  all_goals exact absurd (by decide) hm

/-- The word of four fields given as numbers, as the table of 30_encoding.md R69 adds them up. -/
theorem assembleFields_ofNat (o : Byte) {d a b m : Nat} (hd : d < 8) (ha : a < 8) (hb : b < 8) (hm : m < 8) :
    assembleFields o (BitVec.ofNat 4 d) (BitVec.ofNat 4 a) (BitVec.ofNat 4 b) (BitVec.ofNat 12 m) =
      BitVec.ofNat 32 (o.toNat <<< 24 + d <<< 20 + a <<< 16 + b <<< 12 + m) := by
  have ho := o.isLt
  rw [assembleFields_eq_sum]
  apply BitVec.eq_of_toNat_eq
  simp only [BitVec.toNat_add, BitVec.toNat_shiftLeft, BitVec.toNat_setWidth, Nat.shiftLeft_eq, BitVec.toNat_ofNat]
  omega

/-- The palette names of 40_color.md R80 stand for their indices. -/
theorem asmIndex_name : ∀ entry ∈ [("black", 0), ("red", 1), ("green", 2), ("yellow", 3), ("blue", 4), ("magenta", 5),
    ("cyan", 6), ("white", 7)], asmIndex (.name entry.1) = asmIndex (.index entry.2) := by decide

/-- Settles O8: each row is its opcode with the fields at their places; a refused operand is neither a register nor a
palette index. -/
theorem assemblerFollowsSyntaxTable : Obligations.AssemblerFollowsSyntaxTable := by
  refine ⟨fun d a b k hd ha hb hk => ?_, fun m ops hm => asmCommand_of_unlisted_mnemonic ops hm,
    fun m ops n hmem hn => asmCommand_of_refused_operand (asmReg_creg_of_le hn) rfl hmem,
    fun d k hk => asmCommand_of_refused_operand (o := .index k) rfl (asmIndex_index_of_le hk) (by simp),
    fun entry hentry d => by simp only [asmCommand, asmIndex_name entry hentry]⟩
  have h0 : 0 < 8 := by decide
  refine ⟨?rgb, ?pal, ?mix, ?mixr, ?opac, ?cread, rfl, rfl, ?gput, ?pget, rfl, rfl⟩
  case rgb => simpa [asmCommand, asmReg_creg, hd, encode] using assembleFields_ofNat 0x10#8 hd h0 h0 h0
  case pal =>
    simpa [asmCommand, asmReg_creg, asmIndex_index, hd, hk, encode] using assembleFields_ofNat 0x11#8 hd h0 h0 hk
  case mix => simpa [asmCommand, asmReg_creg, hd, ha, hb, encode] using assembleFields_ofNat 0x12#8 hd ha hb h0
  case mixr => simpa [asmCommand, asmReg_creg, hd, ha, hb, encode] using assembleFields_ofNat 0x13#8 hd ha hb h0
  case opac => simpa [asmCommand, asmReg_creg, hd, ha, encode] using assembleFields_ofNat 0x14#8 hd ha h0 h0
  case cread => simpa [asmCommand, asmReg_creg, ha, encode] using assembleFields_ofNat 0x15#8 h0 ha h0 h0
  case gput => simpa [asmCommand, asmReg_creg, ha, encode] using assembleFields_ofNat 0x22#8 h0 ha h0 h0
  case pget => simpa [asmCommand, asmReg_creg, hd, encode] using assembleFields_ofNat 0x23#8 hd h0 h0 h0

/-- Settles O7: each worked line is assembled and its word decoded by evaluation. -/
theorem workedEncodings : Obligations.WorkedEncodings := by
  unfold Obligations.WorkedEncodings
  decide +kernel

/-! The poll -/

/-- A HOST turn whose next access is a poll of the window logs one value; the poll stays at the head of the program
while the value is not the one asked for (30_encoding.md R70). -/
theorem hostStep_of_poll {s : State} {off : Nat} {mask v : Word} {rest : List HostStmt} (hlt : off < 0x40)
    (hal : off % 4 = 0) (hp : s.program = .poll (s.params.engineBase + off) mask v :: rest) :
    hostStep s =
      if s.readWindow off &&& mask = v then
        .next { s with program := rest, readLog := s.readLog ++ [⟨off, s.readWindow off⟩] }
      else .next { s with readLog := s.readLog ++ [⟨off, s.readWindow off⟩] } := by
  rw [hostStep, hp]
  simp only [hostStatement, locate_window s.params hlt hal, ← hp]
  rfl

/-- Settles O41: the poll's read is a HOST turn, done or to be repeated. -/
theorem pollRepeatsUntilEqual : Obligations.PollRepeatsUntilEqual := by
  intro s off mask v rest hlt hal hp
  rw [hostStep_of_poll hlt hal hp]
  exact ⟨fun h => if_pos h, fun h => if_neg h⟩

end Sys2Proof.Machine

/-! Decimal literals (30_encoding.md R71): the magnitude words counted in units of 2^-149, the search for the greatest
one not above a number, and the choice between it and the next one. -/

namespace Sys2Proof.Machine

/-! Magnitude words -/

/-- The value of the magnitude word `n` (exponent and fraction side by side, no sign) in units of 2^-149, the same rule
carried on past the largest finite word. -/
def magnitudeUnits (n : Nat) : Nat :=
  if n / 2 ^ 23 = 0 then n else (2 ^ 23 + n % 2 ^ 23) * 2 ^ (n / 2 ^ 23 - 1)

theorem magnitudeUnits_of_subnormal {n : Nat} (h : n / 2 ^ 23 = 0) : magnitudeUnits n = n := if_pos h

theorem magnitudeUnits_of_normal {n e : Nat} (h : n / 2 ^ 23 = e + 1) :
    magnitudeUnits n = (2 ^ 23 + n % 2 ^ 23) * 2 ^ e := by
  rw [magnitudeUnits, h, if_neg (Nat.succ_ne_zero e), Nat.add_sub_cancel]

/-- Within an exponent the fraction grows by one; past the last fraction the exponent does. -/
theorem magnitudeUnits_lt_succ (n : Nat) : magnitudeUnits n < magnitudeUnits (n + 1) := by
  obtain hwrap | hstay : n % 2 ^ 23 = 2 ^ 23 - 1 ∨ n % 2 ^ 23 < 2 ^ 23 - 1 := by omega
  · have hmod : (n + 1) % 2 ^ 23 = 0 := by omega
    rw [magnitudeUnits_of_normal (n := n + 1) (e := n / 2 ^ 23) (by omega), hmod]
    cases he : n / 2 ^ 23 with
    | zero => rw [magnitudeUnits_of_subnormal he]; omega
    | succ e =>
      have hpos : 0 < 2 ^ e := by positivity
      rw [magnitudeUnits_of_normal he, hwrap, Nat.pow_succ]
      omega
  · cases he : n / 2 ^ 23 with
    | zero =>
      rw [magnitudeUnits_of_subnormal he, magnitudeUnits_of_subnormal (n := n + 1) (by omega)]
      omega
    | succ e =>
      rw [magnitudeUnits_of_normal he, magnitudeUnits_of_normal (n := n + 1) (e := e) (by omega)]
      exact Nat.mul_lt_mul_of_pos_right (by omega) (by positivity)

/-- The value of the magnitude word `n`. -/
def magnitudeValue (n : Nat) : Rat := magnitudeUnits n * pow2 (-149)

theorem magnitudeValue_strictMono : StrictMono magnitudeValue := by
  refine strictMono_nat_of_lt_succ fun n => ?_
  have hpos : 0 < pow2 (-149) := by rw [pow2_eq_zpow]; positivity
  exact mul_lt_mul_of_pos_right (by exact_mod_cast magnitudeUnits_lt_succ n) hpos

theorem magnitudeValue_zero : magnitudeValue 0 = 0 := by
  simp [magnitudeValue, magnitudeUnits]

theorem f32Exponent_eq (w : Word) : f32Exponent w = w.toNat % 2 ^ 31 / 2 ^ 23 := by
  simp only [f32Exponent, BitVec.extractLsb'_toNat, Nat.shiftRight_eq_div_pow]
  omega

theorem f32Fraction_eq (w : Word) : f32Fraction w = w.toNat % 2 ^ 31 % 2 ^ 23 := by
  simp only [f32Fraction, BitVec.extractLsb'_toNat, Nat.shiftRight_eq_div_pow]
  omega

theorem finite_iff (w : Word) : f32Exponent w ≠ 255 ↔ w.toNat % 2 ^ 31 ≤ 0x7F7FFFFF := by
  rw [f32Exponent_eq]
  omega

/-- A finite word has the value of its low 31 bits, without the sign. -/
theorem f32Magnitude_of_finite {w : Word} (h : f32Exponent w ≠ 255) :
    f32Magnitude w = magnitudeValue (w.toNat % 2 ^ 31) := by
  rw [f32Magnitude, if_neg h, f32Fraction_eq, magnitudeValue]
  cases he : f32Exponent w with
  | zero =>
    have hsub : w.toNat % 2 ^ 31 / 2 ^ 23 = 0 := (f32Exponent_eq w).symm.trans he
    rw [if_pos rfl, magnitudeUnits_of_subnormal hsub, Nat.mod_eq_of_lt (by omega)]
  | succ e =>
    have hsplit : pow2 ((e + 1 : Nat) - 150) = 2 ^ e * pow2 (-149) := by
      rw [pow2_eq_zpow, pow2_eq_zpow, show ((e + 1 : Nat) : Int) - 150 = e + -149 by omega,
        zpow_add₀ two_ne_zero, zpow_natCast]
    rw [if_neg (Nat.succ_ne_zero e), magnitudeUnits_of_normal ((f32Exponent_eq w).symm.trans he), hsplit]
    push_cast
    ring

theorem f32Magnitude_ofNat {n : Nat} (h : n ≤ 0x7F7FFFFF) : f32Magnitude (BitVec.ofNat 32 n) = magnitudeValue n := by
  have hn : (BitVec.ofNat 32 n).toNat % 2 ^ 31 = n := by rw [BitVec.toNat_ofNat]; omega
  rw [f32Magnitude_of_finite ((finite_iff _).2 (hn.le.trans h)), hn]

/-- The value past the largest finite word, 2^128, is the one its place gives. -/
theorem roundingValue_eq {n : Nat} (h : n ≤ 0x7F800000) : roundingValue n = magnitudeValue n := by
  unfold roundingValue
  split_ifs with hn
  · exact f32Magnitude_ofNat hn
  · rw [show n = 0x7F800000 by omega]
    decide +kernel

theorem maxF_eq : maxF = magnitudeValue 0x7F7FFFFF := by decide +kernel

/-! The search -/

/-- What the search tests of a candidate. -/
def FiniteBelow (x : Rat) (n : Nat) : Prop := n ≤ 0x7F7FFFFF ∧ f32Magnitude (BitVec.ofNat 32 n) ≤ x

theorem finiteBelow_iff {x : Rat} {n : Nat} : FiniteBelow x n ↔ n ≤ 0x7F7FFFFF ∧ magnitudeValue n ≤ x :=
  and_congr_right fun h => by rw [f32Magnitude_ofNat h]

theorem FiniteBelow.mono {x : Rat} {m n : Nat} (h : FiniteBelow x n) (hmn : m ≤ n) : FiniteBelow x m := by
  obtain ⟨hn, hx⟩ := finiteBelow_iff.1 h
  exact finiteBelow_iff.2 ⟨hmn.trans hn, (magnitudeValue_strictMono.monotone hmn).trans hx⟩

/-- The search keeps what it has and leaves no candidate out: its answer is the greatest. -/
theorem searchMagnitude_isGreatest {x : Rat} {bits acc : Nat} (hacc : FiniteBelow x acc)
    (hall : ∀ n, FiniteBelow x n → n < acc + 2 ^ bits) :
    IsGreatest {n | FiniteBelow x n} (searchMagnitude x bits acc) := by
  induction bits generalizing acc with
  | zero => exact ⟨hacc, fun n hn => Nat.lt_succ_iff.1 (hall n hn)⟩
  | succ bits ih =>
    unfold searchMagnitude
    dsimp only
    split_ifs with hc
    · exact ih hc fun n hn => by have := hall n hn; rw [Nat.pow_succ] at this; omega
    · exact ih hacc fun n hn => not_le.1 fun hle => hc (hn.mono hle)

/-- The number lies from the word the search finds up to the next one. -/
theorem searchMagnitude_brackets {x : Rat} (h0 : 0 ≤ x) (hmax : x ≤ maxF) :
    ∃ lo, searchMagnitude x 31 0 = lo ∧ lo ≤ 0x7F7FFFFF ∧ magnitudeValue lo ≤ x ∧ x < magnitudeValue (lo + 1) := by
  have hzero : FiniteBelow x 0 := finiteBelow_iff.2 ⟨by omega, magnitudeValue_zero.trans_le h0⟩
  obtain ⟨hlo, hgreatest⟩ := searchMagnitude_isGreatest (bits := 31) hzero fun n hn => by have := hn.1; omega
  obtain ⟨hfin, hle⟩ := finiteBelow_iff.1 hlo
  refine ⟨_, rfl, hfin, hle, not_le.1 fun hnext => ?_⟩
  have hlast : searchMagnitude x 31 0 + 1 ≤ 0x7F7FFFFF :=
    magnitudeValue_strictMono.le_iff_le.1 (hnext.trans (hmax.trans_eq maxF_eq))
  exact absurd (hgreatest (finiteBelow_iff.2 ⟨hlast, hnext⟩)) (by omega)

/-! Rounding -/

/-- `r` is a magnitude word nearest to `x`; another as near is odd, and `r` then even. -/
def NearestEven (x : Rat) (r : Nat) : Prop :=
  ∀ n, |magnitudeValue r - x| ≤ |magnitudeValue n - x| ∧
    (|magnitudeValue r - x| = |magnitudeValue n - x| → n ≠ r → r % 2 = 0 ∧ n % 2 = 1)

section Bracket

variable {x : Rat} {lo : Nat} (hle : magnitudeValue lo ≤ x) (hlt : x < magnitudeValue (lo + 1))

include hle in
theorem dist_of_le {n : Nat} (hn : n ≤ lo) : |magnitudeValue n - x| = x - magnitudeValue n := by
  rw [abs_sub_comm, abs_of_nonneg (sub_nonneg.2 ((magnitudeValue_strictMono.monotone hn).trans hle))]

include hlt in
theorem dist_of_lt {n : Nat} (hn : lo < n) : |magnitudeValue n - x| = magnitudeValue n - x :=
  abs_of_nonneg (sub_nonneg.2 (hlt.le.trans (magnitudeValue_strictMono.monotone hn)))

include hle hlt

/-- The words past the two around `x` are farther from it. -/
theorem dist_lt_of_outside {n : Nat} (hn : n ≠ lo) (hn' : n ≠ lo + 1) :
    |magnitudeValue lo - x| < |magnitudeValue n - x| ∨ |magnitudeValue (lo + 1) - x| < |magnitudeValue n - x| := by
  obtain h | h : n < lo ∨ lo + 1 < n := by omega
  · left
    rw [dist_of_le hle le_rfl, dist_of_le hle h.le]
    exact sub_lt_sub_left (magnitudeValue_strictMono h) x
  · right
    rw [dist_of_lt hlt (Nat.lt_succ_self lo), dist_of_lt hlt (by omega)]
    exact sub_lt_sub_right (magnitudeValue_strictMono h) x

/-- The nearer of the two words around `x`, the even one when they are as near, is nearest of all. -/
theorem nearestEven_of_bracket {r : Nat} (hr : r = lo ∨ r = lo + 1)
    (hnear : |magnitudeValue r - x| ≤ |magnitudeValue lo - x|)
    (hnear' : |magnitudeValue r - x| ≤ |magnitudeValue (lo + 1) - x|)
    (heven : |magnitudeValue lo - x| = |magnitudeValue (lo + 1) - x| → r % 2 = 0) : NearestEven x r := by
  intro n
  by_cases hn : n = lo ∨ n = lo + 1
  · refine ⟨by rcases hn with rfl | rfl <;> assumption, fun heq hne => ?_⟩
    have htie : |magnitudeValue lo - x| = |magnitudeValue (lo + 1) - x| := by
      rcases hr with rfl | rfl <;> rcases hn with rfl | rfl
      · exact absurd rfl hne
      · exact heq
      · exact heq.symm
      · exact absurd rfl hne
    have := heven htie
    omega
  · rw [not_or] at hn
    have hfar : |magnitudeValue r - x| < |magnitudeValue n - x| :=
      (dist_lt_of_outside hle hlt hn.1 hn.2).elim hnear.trans_lt hnear'.trans_lt
    exact ⟨hfar.le, fun heq => absurd heq hfar.ne⟩

end Bracket

/-- Both sides of the model's choice between the two words around `x`. -/
theorem nearestMagnitude_nearestEven {x : Rat} (h0 : 0 ≤ x) (hmax : x ≤ maxF) :
    NearestEven x (nearestMagnitude x) := by
  obtain ⟨lo, hsearch, hfin, hle, hlt⟩ := searchMagnitude_brackets h0 hmax
  have hbelow : |magnitudeValue lo - x| = x - roundingValue lo := by
    rw [roundingValue_eq (by omega), dist_of_le hle le_rfl]
  have habove : |magnitudeValue (lo + 1) - x| = roundingValue (lo + 1) - x := by
    rw [roundingValue_eq (by omega), dist_of_lt hlt (Nat.lt_succ_self lo)]
  unfold nearestMagnitude
  rw [hsearch]
  dsimp only
  rw [← hbelow, ← habove]
  split_ifs with hlo hhi hodd
  · exact nearestEven_of_bracket hle hlt (.inl rfl) le_rfl hlo.le fun h => absurd h hlo.ne
  · exact nearestEven_of_bracket hle hlt (.inr rfl) hhi.le le_rfl fun h => absurd h hhi.ne'
  · exact nearestEven_of_bracket hle hlt (.inl rfl) le_rfl (not_lt.1 hhi) fun _ => hodd
  · exact nearestEven_of_bracket hle hlt (.inr rfl) (not_lt.1 hlo) le_rfl fun _ => by omega

theorem NearestEven.finite {x : Rat} {r : Nat} (h : NearestEven x r) (hmax : x ≤ maxF) : r ≤ 0x7F7FFFFF := by
  obtain ⟨hnear, -⟩ := h 0x7F7FFFFF
  rw [maxF_eq] at hmax
  rw [abs_of_nonneg (sub_nonneg.2 hmax)] at hnear
  exact magnitudeValue_strictMono.le_iff_le.1 (sub_le_sub_iff_right x |>.1 ((le_abs_self _).trans hnear))

/-- Of the values of either sign none is nearer to `x >= 0` than the nearest magnitude: a negative one is no nearer than
zero. -/
theorem NearestEven.of_signed {x v : Rat} {r n : Nat} (h : NearestEven x r) (h0 : 0 ≤ x)
    (hv : v = magnitudeValue n ∨ v = -magnitudeValue n) :
    |magnitudeValue r - x| ≤ |v - x| ∧
      (|magnitudeValue r - x| = |v - x| → v ≠ magnitudeValue r → r % 2 = 0 ∧ n % 2 = 1) := by
  have hpos : v = magnitudeValue n → |magnitudeValue r - x| ≤ |v - x| ∧
      (|magnitudeValue r - x| = |v - x| → v ≠ magnitudeValue r → r % 2 = 0 ∧ n % 2 = 1) := by
    rintro rfl
    exact ⟨(h n).1, fun heq hne => (h n).2 heq fun hnr => hne (congrArg magnitudeValue hnr)⟩
  obtain hv | hv := hv
  · exact hpos hv
  have hn : 0 ≤ magnitudeValue n := magnitudeValue_zero.symm.trans_le (magnitudeValue_strictMono.monotone n.zero_le)
  have hzero : |magnitudeValue r - x| ≤ x := by
    simpa [magnitudeValue_zero, abs_of_nonneg h0] using (h 0).1
  have hdist : |v - x| = magnitudeValue n + x := by
    rw [hv, abs_of_nonpos (by linarith)]
    ring
  exact ⟨by linarith, fun heq => (hpos (by linarith)).2 heq⟩

/-! Words -/

theorem f32Sign_eq (w : Word) : f32Sign w = decide (2 ^ 31 ≤ w.toNat) := BitVec.msb_eq_decide w

theorem f32_of_finite {w : Word} (h : f32Exponent w ≠ 255) :
    f32 w = if 2 ^ 31 ≤ w.toNat then -magnitudeValue (w.toNat % 2 ^ 31) else magnitudeValue (w.toNat % 2 ^ 31) := by
  simp only [f32, f32Sign_eq, decide_eq_true_eq, f32Magnitude_of_finite h]

theorem f32_signed {w : Word} (h : f32Exponent w ≠ 255) :
    f32 w = magnitudeValue (w.toNat % 2 ^ 31) ∨ f32 w = -magnitudeValue (w.toNat % 2 ^ 31) := by
  rw [f32_of_finite h]
  split_ifs
  · exact .inr rfl
  · exact .inl rfl

theorem lowBit_eq (w : Word) : w[0] = decide (w.toNat % 2 = 1) := by
  rw [BitVec.getElem_eq_testBit_toNat, Nat.testBit_zero]

theorem lowBit_eq_false {w : Word} {n : Nat} (hw : w.toNat % 2 ^ 31 = n) (h : n % 2 = 0) : w[0] = false := by
  rw [lowBit_eq, decide_eq_false_iff_not]
  omega

theorem lowBit_eq_true {w : Word} {n : Nat} (hw : w.toNat % 2 ^ 31 = n) (h : n % 2 = 1) : w[0] = true := by
  rw [lowBit_eq, decide_eq_true_iff]
  omega

/-- The word of a literal without sign is a nearest magnitude. -/
theorem nearestF32_of_nonneg {x : Rat} (h0 : 0 ≤ x) (hmax : x ≤ maxF) :
    ∃ r, NearestEven x r ∧ (nearestF32 x).toNat % 2 ^ 31 = r ∧ f32 (nearestF32 x) = magnitudeValue r := by
  have hnear := nearestMagnitude_nearestEven h0 hmax
  have hfin := hnear.finite hmax
  have hword : (nearestF32 x).toNat = nearestMagnitude x := by
    rw [nearestF32, if_neg (not_lt.2 h0), BitVec.toNat_ofNat]
    omega
  have hmod : (nearestF32 x).toNat % 2 ^ 31 = nearestMagnitude x := by omega
  refine ⟨_, hnear, hmod, ?_⟩
  rw [f32_of_finite ((finite_iff _).2 (hmod.trans_le hfin)), if_neg (by omega), hmod]

/-- The word of a negative literal is the sign and a magnitude nearest to the literal's. -/
theorem nearestF32_of_neg {x : Rat} (h0 : x < 0) (hmin : -x ≤ maxF) :
    ∃ r, NearestEven (-x) r ∧ (nearestF32 x).toNat % 2 ^ 31 = r ∧ f32 (nearestF32 x) = -magnitudeValue r := by
  have hnear := nearestMagnitude_nearestEven (neg_nonneg.2 h0.le) hmin
  have hfin := hnear.finite hmin
  have hword : (nearestF32 x).toNat = 2 ^ 31 + nearestMagnitude (-x) := by
    have hor := Nat.two_pow_add_eq_or_of_lt (i := 31) (b := nearestMagnitude (-x)) (by omega) 1
    rw [nearestF32, if_pos h0, BitVec.toNat_or, BitVec.toNat_ofNat, BitVec.toNat_ofNat,
      Nat.mod_eq_of_lt (a := nearestMagnitude (-x)) (by omega)]
    exact hor.symm
  have hmod : (nearestF32 x).toNat % 2 ^ 31 = nearestMagnitude (-x) := by omega
  refine ⟨_, hnear, hmod, ?_⟩
  rw [f32_of_finite ((finite_iff _).2 (hmod.trans_le hfin)), if_pos (by omega), hmod]

/-- Settles O9: the word has the literal's sign and a magnitude nearest to the literal's; for a negative literal all
values are taken with the other sign. -/
theorem literalsRoundToNearest : Obligations.LiteralsRoundToNearest := by
  intro x w hmin hmax hw
  obtain h0 | h0 := le_or_gt 0 x
  · obtain ⟨r, hnear, hmod, hval⟩ := nearestF32_of_nonneg h0 hmax
    obtain ⟨hle, htie⟩ := hnear.of_signed h0 (f32_signed hw)
    rw [hval]
    exact ⟨hle, fun heq hne => (htie heq hne).imp (lowBit_eq_false hmod) (lowBit_eq_true rfl)⟩
  · obtain ⟨r, hnear, hmod, hval⟩ := nearestF32_of_neg h0 (neg_le.1 hmin)
    have hsigned : -f32 w = magnitudeValue (w.toNat % 2 ^ 31) ∨ -f32 w = -magnitudeValue (w.toNat % 2 ^ 31) :=
      (f32_signed hw).symm.imp neg_eq_iff_eq_neg.2 (congrArg Neg.neg)
    obtain ⟨hle, htie⟩ := hnear.of_signed (neg_nonneg.2 h0.le) hsigned
    have hflip : ∀ v : Rat, |-v - -x| = |v - x| := fun v => by rw [neg_sub_neg, abs_sub_comm]
    rw [← neg_neg (magnitudeValue r), ← hval, hflip, hflip] at hle htie
    exact ⟨hle, fun heq hne => (htie heq (neg_injective.ne hne)).imp (lowBit_eq_false hmod) (lowBit_eq_true rfl)⟩

end Sys2Proof.Machine

/-! The colour commands (40_color.md R75 to R99): the exact values of operand words, the word and the rule of each
command, the laws of the colour functions, and what a colour command leaves alone. -/

namespace Sys2Proof.Machine
open Sys2Proof.Spec

variable {s t : State}

/-! Operand words -/

theorem f32_of_nan {w : Word} (he : f32Exponent w = 255) (hf : f32Fraction w ≠ 0) : f32 w = 0 := by
  have hm : f32Magnitude w = 0 := by rw [f32Magnitude, if_pos he, if_neg hf]
  simp [f32, hm]

theorem f32_eq_sign_mul (w : Word) : f32 w = (if w[31] then -1 else 1) * f32Magnitude w := by
  have hsign : f32Sign w = w[31] := rfl
  rw [f32, hsign]
  split <;> simp

theorem f32Magnitude_of_subnormal {w : Word} (h : f32Exponent w = 0) :
    f32Magnitude w = f32Fraction w * (2 : Rat) ^ (-149 : Int) := by
  rw [f32Magnitude, if_neg (by omega), if_pos h, pow2_eq_zpow]

theorem f32Magnitude_of_normal {w : Word} (h0 : f32Exponent w ≠ 0) (h255 : f32Exponent w ≠ 255) :
    f32Magnitude w = (2 ^ 23 + f32Fraction w) * (2 : Rat) ^ ((f32Exponent w : Int) - 150) := by
  rw [f32Magnitude, if_neg h255, if_neg h0, pow2_eq_zpow]
  push_cast
  rfl

theorem f32Magnitude_of_infinite {w : Word} (he : f32Exponent w = 255) (hf : f32Fraction w = 0) :
    f32Magnitude w = (2 : Rat) ^ 128 - 2 ^ 104 := by
  rw [f32Magnitude, if_pos he, if_pos hf]
  decide +kernel

/-- Settles O21: the sign is a factor, the magnitude goes by the exponent. -/
theorem binaryWordsDecodeExactly : Obligations.BinaryWordsDecodeExactly := fun w =>
  ⟨fun h => (f32_eq_sign_mul w).trans (congrArg _ (f32Magnitude_of_subnormal h)),
    fun h0 h255 => (f32_eq_sign_mul w).trans (congrArg _ (f32Magnitude_of_normal h0 h255)),
    f32_of_nan,
    fun he hf => (f32_eq_sign_mul w).trans (congrArg _ (f32Magnitude_of_infinite he hf))⟩

/-! The word of a command -/

theorem opcodeListed_encode (i : Instr) : opcodeListed (encode i) = true := by
  obtain ⟨hop, -⟩ := encode_fields i
  rw [opcodeListed, hop]
  cases i <;> rfl

/-- The row of an ill-formed command finds a must-be-zero bit set, and no other row has its opcode (30_encoding.md
R60, R66). -/
theorem decode_encode_of_not_wellFormed {i : Instr} (h : i.wellFormed = false) :
    decode (encode i) = .error .mustBeZero := by
  obtain ⟨hop, hcd, hca, hcb, himm⟩ := encode_fields i
  rw [decode_by_fields, opcodeListed_encode, hop, hcd, hca, hcb, himm]
  cases i <;> simp_all [Instr.wellFormed, Instr.opcode, Laws.EncodeFields.fieldsOf]

theorem spells_encode (i : Instr) : Spells (encode i) i :=
  ⟨fun h => execWord_of_decode (decode_encode h),
    fun h => execWord_of_decode_error (decode_encode_of_not_wellFormed h)⟩

/-- A command is spelled by its opcode and its fields added up at their places (30_encoding.md R69). -/
theorem spells_of_sum {w : Word} {i : Instr} {d a b : BitVec 4} {m : BitVec 12}
    (hi : encode i = assembleFields i.opcode d a b m)
    (hw : w = i.opcode.setWidth 32 <<< 24 + place d 20 + place a 16 + place b 12 + m.setWidth 32) : Spells w i := by
  have hword : encode i = w := by rw [hi, hw, assembleFields_eq_sum]; rfl
  exact hword ▸ spells_encode i

/-! The six commands -/

/-- A colour command has its effect in IDLE and GEN and is rejected STATE when busy (40_color.md R75). -/
theorem colourRule_of_exec {i : Instr} {effect : State → State}
    (h : ∀ s, exec i s = colourCommand s (effect s)) : ColourRule i effect := fun s =>
  ⟨fun hs => (h s).trans (colourCommand_of_accepts (acceptsColour_iff.2 hs)), fun hb => by
    have hp : s.phase.acceptsColour = false := by
      simpa [busy_eq_not_acceptsColour] using busy_iff.2 hb
    exact (h s).trans (colourCommand_of_not_accepts hp)⟩

/-- Settles O10: the word is the row's opcode with its field in place; RGB is a colour command whose effect reads the
operands it finds. -/
theorem rgbBuildsClampedColour : Obligations.RgbBuildsClampedColour := fun _ =>
  ⟨spells_of_sum rfl (by simp [Instr.opcode, place]), colourRule_of_exec fun _ => rfl⟩

/-- Settles O11: the table by evaluation; PAL is a colour command whose field imm is part of its word. -/
theorem palLoadsPaletteColour : Obligations.PalLoadsPaletteColour :=
  ⟨⟨rfl, rfl, rfl, rfl, rfl, rfl, rfl, rfl⟩, fun _ _ =>
    ⟨spells_of_sum rfl (by simp [Instr.opcode, place]), colourRule_of_exec fun _ => rfl⟩⟩

/-- Settles O12: MIX is a colour command whose effect reads both sources from the state it finds. -/
theorem mixAveragesChannels : Obligations.MixAveragesChannels := fun _ _ _ =>
  ⟨spells_of_sum rfl (by simp [Instr.opcode, place]), colourRule_of_exec fun _ => rfl⟩

theorem mixRatio_of_sum_zero {a b : Colour} {ws wo : Rat} (h : ws + wo = 0) : mixRatio a b ws wo = Colour.black :=
  if_pos h

theorem mixRatio_of_sum_ne_zero {a b : Colour} {ws wo : Rat} (h : ws + wo ≠ 0) :
    mixRatio a b ws wo = ⟨mixChannel a.r b.r ws wo, mixChannel a.g b.g ws wo, mixChannel a.b b.b ws wo⟩ := if_neg h

/-- Settles O13: the two branches of mix_ratio; MIXR is a colour command that writes it. -/
theorem mixrWeighsChannels : Obligations.MixrWeighsChannels :=
  ⟨fun _ _ _ _ => mixRatio_of_sum_zero, fun _ _ _ _ => mixRatio_of_sum_ne_zero, fun _ _ _ =>
    ⟨spells_of_sum rfl (by simp [Instr.opcode, place]), colourRule_of_exec fun _ => rfl⟩⟩

/-- Settles O14: OPAC is a colour command that scales its source by OPND0's value. -/
theorem opacScalesChannels : Obligations.OpacScalesChannels := fun _ _ =>
  ⟨spells_of_sum rfl (by simp [Instr.opcode, place]), colourRule_of_exec fun _ => rfl⟩

/-- The three bytes of a packed word do not overlap, so they add up at their places (40_color.md R97). -/
theorem packColour_toNat (c : Colour) :
    (packColour c).toNat = (q8 c.r).toNat * 2 ^ 16 + (q8 c.g).toNat * 2 ^ 8 + (q8 c.b).toNat := by
  have hr := (q8 c.r).isLt
  have hg := (q8 c.g).isLt
  have hb := (q8 c.b).isLt
  simp only [packColour, BitVec.toNat_append, BitVec.toNat_ofNat]
  rw [← Nat.shiftLeft_add_eq_or_of_lt hb, ← Nat.shiftLeft_add_eq_or_of_lt hg, ← Nat.shiftLeft_add_eq_or_of_lt hr]
  simp only [Nat.shiftLeft_eq]
  omega

/-- Settles O15: the packed word as a number; CREAD is a colour command whose effect is on RESULT alone. -/
theorem creadPacksBytes : Obligations.CreadPacksBytes :=
  ⟨fun c => ⟨packColour_toNat c, packColour_top c⟩, fun _ =>
    ⟨spells_of_sum rfl (by simp [Instr.opcode, place]), colourRule_of_exec fun _ => rfl⟩⟩

/-! The laws of mix and mix_ratio -/

/-- Equal weights cancel, and the average of two channels in range needs no clamp. -/
theorem mixRatio_equal_weights {a b : Colour} {w : Rat} (ha : a.InRange) (hb : b.InRange) (hw : w ≠ 0) :
    mixRatio a b w w = mixColour a b := by
  have channel : ∀ {x y : Rat}, (0 ≤ x ∧ x ≤ 1) → (0 ≤ y ∧ y ≤ 1) → mixChannel x y w w = (x + y) / 2 := by
    intro x y hx hy
    have hmean : (x * w + y * w) / (w + w) = (x + y) / 2 := by field_simp; ring
    rw [mixChannel, hmean, clamp01_of_inRange (mean_inRange hx hy)]
  obtain ⟨har, hag, hab⟩ := ha
  obtain ⟨hbr, hbg, hbb⟩ := hb
  rw [mixRatio_of_sum_ne_zero (by simpa using hw), channel har hbr, channel hag hbg, channel hab hbb, mixColour]

theorem mixColour_comm (a b : Colour) : mixColour a b = mixColour b a := by
  simp only [mixColour, add_comm]

theorem mixColour_self (a : Colour) : mixColour a a = a := by
  simp only [mixColour, add_self_div_two]

/-- Settles O17: mix is symmetric and averages equal channels; equal weights cancel. -/
theorem mixLaws : Obligations.MixLaws :=
  ⟨mixColour_comm, mixColour_self, fun _ _ ha hb => (mixRatio_equal_weights ha hb one_ne_zero).symm,
    fun _ _ _ ha hb hw => (mixRatio_equal_weights ha hb hw).symm⟩

theorem mixRatio_swap (a b : Colour) (ws wo : Rat) : mixRatio a b ws wo = mixRatio b a wo ws := by
  simp only [mixRatio, mixChannel, add_comm]

/-- A common factor of the weights cancels in each channel, and does not make a sum zero. -/
theorem mixRatio_scale (a b : Colour) (ws wo : Rat) {t : Rat} (ht : t ≠ 0) :
    mixRatio a b (t * ws) (t * wo) = mixRatio a b ws wo := by
  have hsum : t * ws + t * wo = 0 ↔ ws + wo = 0 := by rw [← mul_add, mul_eq_zero_iff_left ht]
  have channel : ∀ x y : Rat, mixChannel x y (t * ws) (t * wo) = mixChannel x y ws wo := fun x y => by
    have hnum : x * (t * ws) + y * (t * wo) = t * (x * ws + y * wo) := by ring
    rw [mixChannel, hnum, ← mul_add, mul_div_mul_left _ _ ht, mixChannel]
  simp only [mixRatio, hsum, channel]

theorem mixRatio_one_zero {a : Colour} (b : Colour) (ha : a.InRange) : mixRatio a b 1 0 = a := by
  have channel : ∀ {x : Rat} (y : Rat), (0 ≤ x ∧ x ≤ 1) → mixChannel x y 1 0 = x := fun y hx => by
    simpa [mixChannel] using clamp01_of_inRange hx
  obtain ⟨har, hag, hab⟩ := ha
  rw [mixRatio_of_sum_ne_zero (by simp), channel _ har, channel _ hag, channel _ hab]

theorem mixRatio_zero_one (a : Colour) {b : Colour} (hb : b.InRange) : mixRatio a b 0 1 = b :=
  (mixRatio_swap a b 0 1).trans (mixRatio_one_zero a hb)

/-- Settles O18: zero sums are Black, a weight of 0 drops its colour, infinities are equal weights. -/
theorem mixRatioCorners : Obligations.MixRatioCorners := by
  have hinf : f32 0x7F800000#32 ≠ 0 := by decide +kernel
  refine ⟨fun a b => mixRatio_of_sum_zero (add_zero 0), fun a b w => mixRatio_of_sum_zero (add_neg_cancel w),
    fun a b x y hxe hxf hye hyf => mixRatio_of_sum_zero ?nan,
    fun a b ha hb => ⟨mixRatio_one_zero b ha, mixRatio_zero_one a hb⟩,
    fun a b ha hb => mixRatio_equal_weights ha hb hinf, by decide +kernel⟩
  case nan => rw [f32_of_nan hxe hxf, f32_of_nan hye hyf, add_zero]

/-- Settles O19: by the swap and scale laws; with the weights 1 and 0, red and Black exchanged give Black for red. -/
theorem mixRatioLaws : Obligations.MixRatioLaws := by
  refine ⟨mixRatio_swap, fun a b ws wo t => mixRatio_scale a b ws wo, palette 1, Colour.black, 1, 0,
    palette_inRange 1, black_inRange, one_ne_zero, by decide, ?_⟩
  rw [mixRatio_one_zero _ (palette_inRange 1), mixRatio_one_zero _ black_inRange]
  decide

/-! The laws of opacity -/

/-- Where the first clamp changes nothing the factors multiply. -/
theorem clamp01_scale_scale_of_inRange {v x : Rat} (y : Rat) (h : 0 ≤ v * x ∧ v * x ≤ 1) :
    clamp01 (clamp01 (v * x) * y) = clamp01 (v * (x * y)) := by
  rw [clamp01_of_inRange h, mul_assoc]

/-- A channel scaled by a negative factor is 0 and stays 0. -/
theorem clamp01_scale_scale_of_nonpos {v x y : Rat} (hv : 0 ≤ v) (hx : x ≤ 0) (hy : 0 ≤ y) :
    clamp01 (clamp01 (v * x) * y) = clamp01 (v * (x * y)) := by
  have hvx : v * x ≤ 0 := mul_nonpos_of_nonneg_of_nonpos hv hx
  rw [clamp01_of_nonpos hvx, zero_mul, ← mul_assoc, clamp01_of_nonpos (mul_nonpos_of_nonpos_of_nonneg hvx hy),
    clamp01_of_nonpos le_rfl]

theorem opacity_zero (c : Colour) : opacity c 0 = Colour.black := by
  simp [opacity, clamp01_of_nonpos, Colour.black]

theorem opacity_one {c : Colour} (h : c.InRange) : opacity c 1 = c := by
  obtain ⟨hr, hg, hb⟩ := h
  simp only [opacity, mul_one, clamp01_of_inRange hr, clamp01_of_inRange hg, clamp01_of_inRange hb]

theorem opacity_opacity_of_inRange {c : Colour} {x : Rat} (y : Rat) (hr : 0 ≤ c.r * x ∧ c.r * x ≤ 1)
    (hg : 0 ≤ c.g * x ∧ c.g * x ≤ 1) (hb : 0 ≤ c.b * x ∧ c.b * x ≤ 1) :
    opacity (opacity c x) y = opacity c (x * y) := by
  simp only [opacity, clamp01_scale_scale_of_inRange y hr, clamp01_scale_scale_of_inRange y hg,
    clamp01_scale_scale_of_inRange y hb]

theorem opacity_opacity_of_nonpos {c : Colour} {x y : Rat} (h : c.InRange) (hx : x ≤ 0) (hy : 0 ≤ y) :
    opacity (opacity c x) y = opacity c (x * y) := by
  obtain ⟨⟨hr, -⟩, ⟨hg, -⟩, ⟨hb, -⟩⟩ := h
  simp only [opacity, clamp01_scale_scale_of_nonpos hr hx hy, clamp01_scale_scale_of_nonpos hg hx hy,
    clamp01_scale_scale_of_nonpos hb hx hy]

/-- Settles O20: a factor in [0, 1] is a case of a first clamp that changes nothing; the counterexamples by
evaluation. -/
theorem opacityLaws : Obligations.OpacityLaws := by
  have dim : ∀ {v x : Rat}, (0 ≤ v ∧ v ≤ 1) → 0 ≤ x → x ≤ 1 → 0 ≤ v * x ∧ v * x ≤ 1 := fun hv hx0 hx1 =>
    ⟨mul_nonneg hv.1 hx0, mul_le_one₀ hv.2 hx0 hx1⟩
  refine ⟨fun c h => ⟨opacity_zero c, opacity_one h⟩, fun c x y _ hr hg hb => opacity_opacity_of_inRange y hr hg hb,
    fun c x y ⟨hr, hg, hb⟩ hx0 hx1 => ?dimmed, fun c x y h hx hy => opacity_opacity_of_nonpos h hx hy,
    by decide +kernel, by decide +kernel⟩
  case dimmed => exact opacity_opacity_of_inRange y (dim hr hx0 hx1) (dim hg hx0 hx1) (dim hb hx0 hx1)

/-! The palette and RGB -/

/-- The word of 1 or of 0, by a bit. -/
theorem clamp01_f32_bit (b : Bool) :
    clamp01 (f32 (if b then 0x3F800000#32 else 0#32)) = if b then 1 else 0 := by
  cases b <;> decide +kernel

/-- The table of 40_color.md R80 is the three bits of the index, red the lowest (R82). -/
theorem palette_bits (k : BitVec 3) :
    palette k = ⟨if k[0] then 1 else 0, if k[1] then 1 else 0, if k[2] then 1 else 0⟩ := by
  revert k; decide

/-- Settles O23: RGB and PAL write the same colour, channel by channel the bit of the index. -/
theorem paletteColoursAreOrdinary : Obligations.PaletteColoursAreOrdinary := by
  intro cd imm s _ h0 h1 h2
  have hbit : ∀ (n : Nat) (h : n < 3), (paletteIndex imm)[n] = imm[n] := fun n h => by
    rw [paletteIndex, BitVec.getElem_extractLsb', Nat.zero_add, BitVec.getLsbD_eq_getElem]
  have hcolour : rgbColour (f32 s.opnd0) (f32 s.opnd1) (f32 s.opnd2) = palette (paletteIndex imm) := by
    rw [palette_bits, hbit 0, hbit 1, hbit 2, h0, h1, h2, rgbColour, clamp01_f32_bit, clamp01_f32_bit,
      clamp01_f32_bit]
  simp only [exec, execRgb, execPal, hcolour]

/-! What a colour command writes, and what it leaves alone -/

/-- What a colour command can do: it is rejected STATE when busy; in IDLE and GEN it writes its destination register,
or RESULT for CREAD. -/
theorem exec_of_isColour {i : Instr} (hi : isColour i = true) (h : exec i s = .next t) :
    (¬ IdleOrGen s ∧ t = s.reject .state) ∨
      (IdleOrGen s ∧ ∃ cd c, s.written i = some (cd, c) ∧ t = s.setCreg cd c) ∨
      (IdleOrGen s ∧ ∃ ca, i = .cread ca ∧ t = { s with result := packColour (s.creg ca) }) := by
  have accepted : IdleOrGen s → firstError i s = .none := fun hs =>
    (firstError_of_isColour hi s).trans (if_pos (acceptsColour_iff.2 hs))
  have busy : ¬ IdleOrGen s → firstError i s = .state := fun hs =>
    (firstError_of_isColour hi s).trans (if_neg (mt acceptsColour_iff.1 hs))
  cases exec_outcome h with
  | rejected herr =>
    have hs : ¬ IdleOrGen s := mt accepted herr
    exact .inl ⟨hs, by rw [busy hs]⟩
  | register hacc hw =>
    have hs : IdleOrGen s := by_contra fun hs => by simp [busy hs] at hacc
    exact .inr (.inl ⟨hs, _, _, hw, rfl⟩)
  | cread hacc => exact .inr (.inr ⟨acceptsColour_iff.1 hacc, _, rfl, rfl⟩)
  | new | each | gput | rest | clrerr => cases hi

/-- What a colour command writes is in range, whatever the operand words, when the registers it reads are. -/
theorem written_inRange_of_isColour {i : Instr} {cd : BitVec 4} {c : Colour} (hi : isColour i = true)
    (hs : ∀ f, (s.creg f).InRange) (hw : s.written i = some (cd, c)) : c.InRange := by
  cases i with
  | rgb => cases hw; exact rgbColour_inRange ..
  | pal => cases hw; exact palette_inRange _
  | mix => cases hw; exact mixColour_inRange (hs _) (hs _)
  | mixr => cases hw; exact mixRatio_inRange ..
  | opac => cases hw; exact opacity_inRange ..
  | cread => cases hw
  | new | each | gput | pget | rest | clrerr => cases hi

/-- Settles O16: the colour functions are in range, and an accepted command replaces one register by such a colour. -/
theorem colourResultsStayInRange : Obligations.ColourResultsStayInRange := by
  refine ⟨rgbColour_inRange, palette_inRange,
    fun a b ha hb => ⟨mixColour_inRange ha hb, mixRatio_inRange a b, opacity_inRange a⟩, fun i s t hi hs h => ?_⟩
  rcases exec_of_isColour hi h with ⟨-, rfl⟩ | ⟨-, cd, c, hw, rfl⟩ | ⟨-, ca, -, rfl⟩
  · exact ⟨hs, rfl⟩
  · have hc : c.InRange := written_inRange_of_isColour hi (fun f => hs (regIndex f)) hw
    refine ⟨fun r => ?_, rfl⟩
    simp only [setCreg_cregs, Fin.getElem_fin, Vector.getElem_set]
    split
    · exact hc
    · exact hs r
  · exact ⟨hs, rfl⟩

/-- What a colour command writes is computed from its sources and the operands it reads (40_color.md R96). -/
theorem written_congr {s s' : State} {i : Instr} (hi : isColour i = true)
    (hsrc : ∀ f ∈ sources i, s.creg f = s'.creg f) (h0 : (operandsRead i).1 = true → s.opnd0 = s'.opnd0)
    (h1 : (operandsRead i).2.1 = true → s.opnd1 = s'.opnd1) (h2 : (operandsRead i).2.2 = true → s.opnd2 = s'.opnd2) :
    s.written i = s'.written i := by
  cases i with
  | rgb => simp only [State.written, h0 rfl, h1 rfl, h2 rfl]
  | pal => rfl
  | mix cd ca cb => simp only [State.written, hsrc ca (by simp [sources]), hsrc cb (by simp [sources])]
  | mixr cd ca cb =>
    simp only [State.written, hsrc ca (by simp [sources]), hsrc cb (by simp [sources]), h0 rfl, h1 rfl]
  | opac cd ca => simp only [State.written, hsrc ca (by simp [sources]), h0 rfl]
  | cread => rfl
  | new | each | gput | pget | rest | clrerr => cases hi

/-- An accepted colour command leaves what it writes in its destination register. -/
theorem written_of_isColour {i : Instr} {cd : BitVec 4} (hi : isColour i = true) (hd : destination i = some cd)
    (hs : IdleOrGen s) (h : exec i s = .next t) : s.written i = some (cd, cregOf t cd) := by
  rcases exec_of_isColour hi h with ⟨hb, -⟩ | ⟨-, cd', c, hw, rfl⟩ | ⟨-, ca, rfl, -⟩
  · exact absurd hs hb
  · have hcd : cd' = cd := by simpa [destination_eq_written s, hw] using hd
    have hc : cregOf (s.setCreg cd' c) cd = c := by
      rw [hcd]
      exact (creg_setCreg cd cd c).trans (if_pos rfl)
    rw [hc, hw, hcd]
  · cases hd

/-- Settles O24: both states hold in the destination what the command computes from its sources and operands. -/
theorem colourResultDependsOnlyOnSources : Obligations.ColourResultDependsOnlyOnSources := by
  intro i cd s s' t t' hi hd hs hs' hsrc h0 h1 h2 h h'
  have hw : some (cd, cregOf t cd) = some (cd, cregOf t' cd) :=
    calc some (cd, cregOf t cd)
      _ = s.written i := (written_of_isColour hi hd hs h).symm
      _ = s'.written i := written_congr hi hsrc h0 h1 h2
      _ = some (cd, cregOf t' cd) := written_of_isColour hi hd hs' h'
  simpa using hw

/-- A register of the window stands at its offset. -/
theorem offset_windowReg {off : Nat} {reg : WindowReg} (h : windowReg off = reg) (hr : reg ≠ .reserved) :
    off = reg.offset := by
  subst h
  unfold windowReg at hr ⊢
  split at hr
  case h_9 => exact absurd rfl hr
  all_goals rfl

/-- Of the window only STATUS shows ERR and only RESULT shows RESULT, and no register shows a colour. -/
theorem readWindow_of_colour_update {off : Nat} (ht : t = { s with cregs := t.cregs, result := t.result, err := t.err })
    (hstatus : off ≠ 0x04) (hresult : off = 0x14 → t.result = s.result) : t.readWindow off = s.readWindow off := by
  rw [ht]
  cases hreg : windowReg off with simp only [State.readWindow, hreg]
  | status => exact absurd (offset_windowReg hreg (by simp)) hstatus
  | result => exact hresult (offset_windowReg hreg (by simp))
  | gindex => rfl

/-- Settles O25: by what a colour command can do, and by which registers of the window show what it changes. -/
theorem colourCommandsFrame : Obligations.ColourCommandsFrame := by
  intro i s t hi h
  have ho := exec_outcome h
  have hres : (∀ ca, i ≠ .cread ca) → t.result = s.result := fun hc => by
    by_contra hne
    obtain ⟨ca, rfl⟩ := ho.cread_of_result_ne hne
    exact hc ca rfl
  have hframe : t = { s with cregs := t.cregs, result := t.result, err := t.err } ∧ (IdleOrGen s → t.err = s.err) := by
    rcases exec_of_isColour hi h with ⟨hb, rfl⟩ | ⟨-, cd, c, -, rfl⟩ | ⟨-, ca, -, rfl⟩
    · exact ⟨rfl, fun hs => absurd hs hb⟩
    · exact ⟨rfl, fun _ => rfl⟩
    · exact ⟨rfl, fun _ => rfl⟩
  obtain ⟨hframe, herr⟩ := hframe
  refine ⟨hframe, herr, fun r hr => ?_, hres, fun n hn hcread => ?_⟩
  · by_contra hne
    obtain ⟨cd, hd, hreg⟩ := ho.destination_of_creg_ne hne
    exact hr cd hd hreg
  · have hresult : 4 * (n / 4) = 0x14 → t.result = s.result := fun hoff => hres fun ca hca => by
      have := hcread ⟨ca, hca⟩
      omega
    rw [State.windowByte, State.windowByte, readWindow_of_colour_update hframe (by omega) hresult]

end Sys2Proof.Machine

/-! The strip commands (41_strip.md R100 to R120): what each does in every STATE, what it leaves alone, and the generator
phase, in which only GPUT moves the frame on (R105 to R110). -/

namespace Sys2Proof.Machine
open Sys2Proof.Spec

variable {s t : State}

/-! The six commands -/

theorem idleStripCommand_of_not_idle {k : Answer State} (hp : s.phase ≠ .idle) :
    idleStripCommand s k = .next (s.reject .state) := if_pos hp

theorem idleStripCommand_of_no_strip {k : Answer State} (hp : s.phase = .idle) (hl : s.length = 0#32) :
    idleStripCommand s k = .next (s.reject .nocfg) := by
  rw [idleStripCommand, if_neg (not_not.2 hp), if_pos (configured_eq_false_iff.2 hl)]

theorem exec_new_of_not_idle (hp : s.phase ≠ .idle) : exec .new s = .next (s.reject .state) := if_pos hp

theorem exec_new_of_strip (hp : s.phase = .idle) (hl : s.length ≠ 0#32) : exec .new s = .next (s.reject .config) := by
  rw [exec, execNew, if_neg (not_not.2 hp), if_pos (configured_iff.2 hl)]

theorem exec_new_of_no_strip (hp : s.phase = .idle) (hl : s.length = 0#32) :
    exec .new s = if s.opnd0 = 0#32 ∨ s.params.maxLeds < s.opnd0.toNat then .next (s.reject .config)
      else .next s.construct := by
  rw [exec, execNew, if_neg (not_not.2 hp), if_neg (Bool.eq_false_iff.1 (configured_eq_false_iff.2 hl))]

theorem exec_new_of_bad_operand (hp : s.phase = .idle) (h : s.opnd0 = 0#32 ∨ s.params.maxLeds < s.opnd0.toNat) :
    exec .new s = .next (s.reject .config) := by
  by_cases hl : s.length = 0#32
  · rw [exec_new_of_no_strip hp hl, if_pos h]
  · exact exec_new_of_strip hp hl

/-- Settles O26: the state check, the strip check, the operand check, and the construction when they pass. -/
theorem newConstructsStrip : Obligations.NewConstructsStrip := by
  refine ⟨spells_encode .new, fun s => ⟨exec_new_of_not_idle, exec_new_of_strip,
    fun hp h0 => exec_new_of_bad_operand hp (.inl h0), fun hp hmax => exec_new_of_bad_operand hp (.inr hmax),
    fun hp hl hpos hmax => ?_⟩⟩
  have hok : ¬ (s.opnd0 = 0#32 ∨ s.params.maxLeds < s.opnd0.toNat) :=
    not_or.2 ⟨word_toNat_pos.1 hpos, not_lt.2 hmax⟩
  exact (exec_new_of_no_strip hp hl).trans (if_neg hok)

/-- Settles O27: EACH needs IDLE and a strip, and then opens the frame at pixel 0. -/
theorem eachOpensFrame : Obligations.EachOpensFrame :=
  ⟨spells_encode .each, fun _ => ⟨idleStripCommand_of_not_idle, idleStripCommand_of_no_strip, idleStripCommand_of_ready⟩⟩

theorem exec_gput_of_gen {i : Word} (ca : BitVec 4) (hp : s.phase = .gen i) :
    exec (.gput ca) s = .next ((s.setPixel i.toNat (s.creg ca)).enter (afterPixel s.length i)) := by
  simp only [exec, execGput, hp]

theorem exec_gput_of_not_gen (ca : BitVec 4) (hp : ∀ i, s.phase ≠ .gen i) :
    exec (.gput ca) s = .next (s.reject .state) := by
  rw [exec, execGput]
  split
  · exact absurd ‹_› (hp _)
  · rfl

/-- Settles O28: in GEN the register goes to the pixel asked for; the next STATE is a request below LENGTH, else TX. -/
theorem gputStoresPixel : Obligations.GputStoresPixel := by
  refine fun ca => ⟨spells_of_sum rfl (by simp [Instr.opcode, place]), fun s => ⟨exec_gput_of_not_gen ca,
    fun i hp hlt => ?next, fun i hp hle => ?last⟩⟩
  case next => rw [exec_gput_of_gen ca hp, afterPixel, if_pos hlt]; rfl
  case last => rw [exec_gput_of_gen ca hp, afterPixel, if_neg (not_lt.2 hle)]; rfl

theorem exec_pget_of_ready (cd : BitVec 4) (hp : s.phase = .idle) (hl : s.length ≠ 0#32) :
    exec (.pget cd) s = if s.length.toNat ≤ s.opnd0.toNat then .next (s.reject .range)
      else .next (s.setCreg cd (s.pixel s.opnd0.toNat)) := idleStripCommand_of_ready hp hl

theorem pixel_of_getElem? {n : Nat} {c : Colour} (h : s.buf[n]? = some c) : s.pixel n = c := by
  rw [State.pixel, List.getD_eq_getElem?_getD, h, Option.getD_some]

/-- Settles O29: PGET needs IDLE and a strip, then an index below LENGTH, which also says that a strip exists. -/
theorem pgetReadsPixel : Obligations.PgetReadsPixel := by
  refine fun cd => ⟨spells_of_sum rfl (by simp [Instr.opcode, place]), fun s => ⟨idleStripCommand_of_not_idle,
    idleStripCommand_of_no_strip, fun hp hl hle => (exec_pget_of_ready cd hp hl).trans (if_pos hle),
    fun c hp hlt hc => ?_⟩⟩
  have hl : s.length ≠ 0#32 := word_toNat_pos.1 (Nat.zero_lt_of_lt hlt)
  rw [exec_pget_of_ready cd hp hl, if_neg (not_le.2 hlt), pixel_of_getElem? hc]
  rfl

theorem engineStep_of_restDelay {us : Word} (hp : s.phase = .restDelay us) :
    engineStep s = .next (delayStep us s) := by
  rw [engineStep, hp]

theorem engineStep_of_restLatch {us : Word} (hp : s.phase = .restLatch us) :
    engineStep s = .next (latchStep us s) := by
  rw [engineStep, hp]

/-- Settles O30: REST needs IDLE and a strip; the value it samples stays in STATE through both engine steps. -/
theorem restDelaysThenLatches : Obligations.RestDelaysThenLatches :=
  ⟨spells_encode .rest,
    fun _ => ⟨idleStripCommand_of_not_idle, idleStripCommand_of_no_strip, idleStripCommand_of_ready⟩,
    fun _ _ => engineStep_of_restDelay, fun _ _ => engineStep_of_restLatch⟩

/-- Settles O31: CLRERR has no check to fail. -/
theorem clrerrClearsError : Obligations.ClrerrClearsError := ⟨spells_encode .clrerr, fun _ => rfl⟩

/-! What a command leaves of the register window -/

theorem CommandOutcome.length_eq {i : Instr} (h : CommandOutcome s i t) (hi : i ≠ .new) : t.length = s.length := by
  cases h with
  | new => exact absurd rfl hi
  | rejected | register | cread | each | gput | rest | clrerr => rfl

/-- GINDEX reads 0 outside GEN and is 0 when EACH enters GEN, so only GPUT moves it. -/
theorem CommandOutcome.gindex_eq {i : Instr} (h : CommandOutcome s i t) (hi : ∀ ca, i ≠ .gput ca) :
    t.gindex = s.gindex := by
  cases h with
  | gput => exact absurd rfl (hi _)
  | each hp | rest hp => simp [State.gindex, hp]
  | rejected | register | cread | new | clrerr => rfl

/-- Of the window a command changes STATUS, and RESULT, LENGTH or GINDEX only as CREAD, NEW or GPUT. -/
theorem CommandOutcome.windowByte_eq {i : Instr} {n : Nat} (h : CommandOutcome s i t) (hstatus : n < 0x04 ∨ 0x08 ≤ n)
    (hresult : (∃ ca, i = .cread ca) → n < 0x14 ∨ 0x18 ≤ n) (hlength : i = .new → n < 0x18 ∨ 0x1C ≤ n)
    (hgindex : (∃ ca, i = .gput ca) → n < 0x1C ∨ 0x20 ≤ n) : t.windowByte n = s.windowByte n := by
  obtain ⟨h0, h1, h2⟩ := h.opnds_eq
  have hread : t.readWindow (4 * (n / 4)) = s.readWindow (4 * (n / 4)) := by
    cases hreg : windowReg (4 * (n / 4)) with simp only [State.readWindow, hreg]
    | status =>
      have hoff : 4 * (n / 4) = 0x04 := offset_windowReg hreg (by simp)
      omega
    | opnd0 => exact h0
    | opnd1 => exact h1
    | opnd2 => exact h2
    | result =>
      have hoff : 4 * (n / 4) = 0x14 := offset_windowReg hreg (by simp)
      by_contra hne
      have := hresult (h.cread_of_result_ne hne)
      omega
    | length =>
      have hoff : 4 * (n / 4) = 0x18 := offset_windowReg hreg (by simp)
      refine h.length_eq fun hi => ?_
      have := hlength hi
      omega
    | gindex =>
      have hoff : 4 * (n / 4) = 0x1C := offset_windowReg hreg (by simp)
      refine h.gindex_eq fun ca hi => ?_
      have := hgindex ⟨ca, hi⟩
      omega
  rw [State.windowByte, State.windowByte, hread]

/-- Settles O32: each command is rejected or has its one effect, and the window shows only what the effect writes. -/
theorem stripCommandsFrame : Obligations.StripCommandsFrame := by
  refine fun s t => ⟨fun h => ⟨?new, fun n hs hl => ?_⟩, fun h => ⟨?each, fun n hs => ?_⟩,
    fun ca h => ⟨?gput, ?bufLength, fun j hj => ?otherPixel, fun n hs hg => ?_⟩,
    fun cd h => ⟨?pget, fun r hr => ?otherRegister, fun n hs => ?_⟩, fun h => ⟨?rest, fun n hs => ?_⟩,
    fun h => ⟨?clrerr, fun n hs => ?_⟩⟩
  case new => rcases execNew_next h with ⟨-, rfl⟩ | ⟨-, rfl⟩ | ⟨-, -, -, -, rfl⟩ <;> rfl
  case each => rcases execEach_next h with ⟨_, rfl⟩ | ⟨-, -, rfl⟩ <;> rfl
  case gput => rcases execGput_next h with ⟨-, rfl⟩ | ⟨i, -, rfl⟩ <;> rfl
  case bufLength =>
    rcases execGput_next h with ⟨-, rfl⟩ | ⟨i, -, rfl⟩
    · rfl
    · exact List.length_set
  case otherPixel =>
    rcases execGput_next h with ⟨-, rfl⟩ | ⟨i, hp, rfl⟩
    · rfl
    · rw [gindex_of_gen hp] at hj
      exact List.getElem?_set_ne hj.symm
  case pget => rcases execPget_next h with ⟨_, rfl⟩ | ⟨-, -, rfl⟩ <;> rfl
  case otherRegister =>
    by_contra hne
    obtain ⟨cd', hd, hreg⟩ := (exec_outcome h).destination_of_creg_ne hne
    cases hd
    exact hr hreg
  case rest => rcases execRest_next h with ⟨_, rfl⟩ | ⟨-, -, rfl⟩ <;> rfl
  case clrerr => cases h; rfl
  all_goals exact (exec_outcome h).windowByte_eq hs (by simp) (by simp [*]) (by simp [*])

/-! The generator phase -/

/-- `t` stands where `s` stands in its frame: the same STATE with its index, and the same strip, wire and pin. -/
structure SameFrame (s t : State) : Prop where
  phase_eq : t.phase = s.phase
  buf_eq : t.buf = s.buf
  length_eq : t.length = s.length
  wire_eq : t.wire = s.wire
  pin_eq : t.pin = s.pin

theorem SameFrame.refl (s : State) : SameFrame s s := ⟨rfl, rfl, rfl, rfl, rfl⟩

theorem SameFrame.trans {u : State} (h : SameFrame s t) (h' : SameFrame t u) : SameFrame s u :=
  ⟨h'.phase_eq.trans h.phase_eq, h'.buf_eq.trans h.buf_eq, h'.length_eq.trans h.length_eq,
    h'.wire_eq.trans h.wire_eq, h'.pin_eq.trans h.pin_eq⟩

/-- In GEN no command but GPUT moves the frame: the others that would need IDLE (41_strip.md R109). -/
theorem CommandOutcome.sameFrame_of_gen {i : Instr} {g : Word} (h : CommandOutcome s i t) (hp : s.phase = .gen g)
    (hi : ∀ ca, i ≠ .gput ca) : SameFrame s t := by
  cases h with
  | gput => exact absurd rfl (hi _)
  | new hidle | each hidle | rest hidle => simp [hp] at hidle
  | rejected | register | cread | clrerr => exact ⟨rfl, rfl, rfl, rfl, rfl⟩

theorem execWord_sameFrame_of_gen {w g : Word} (hp : s.phase = .gen g) (hw : ∀ ca, decode w ≠ .ok (.gput ca))
    (h : execWord w s = .next t) : SameFrame s t := by
  rcases execWord_next h with ⟨i, hd, hi⟩ | ⟨e, -, rfl⟩
  · exact (exec_outcome hi).sameFrame_of_gen hp fun ca hca => hw ca (hca ▸ hd)
  · exact ⟨rfl, rfl, rfl, rfl, rfl⟩

/-- Settles O57: the engine has no step in GEN, a word is rejected or runs a command that leaves the frame where it
stands, and GPUT stores at the index STATE holds. -/
theorem generatorPhaseAdvancesByGput : Obligations.GeneratorPhaseAdvancesByGput := by
  refine fun s i hp => ⟨engineStep_idleOrGen (.inr ⟨i, hp⟩), fun w t hw h => ?other, fun w ca t hd h => ?gput⟩
  case other =>
    obtain ⟨hphase, hbuf, hlen, hwire, hpin⟩ := execWord_sameFrame_of_gen hp hw h
    exact ⟨hphase.trans hp, hbuf, hlen, hwire, hpin⟩
  case gput =>
    rw [execWord_of_decode hd, exec_gput_of_gen ca hp] at h
    cases h
    rfl

/-! The HOST's writes between two GPUTs -/

/-- `s` in GEN at the index `g` of a frame with the buffer `buf`. -/
def State.atPixel (s : State) (buf : List Colour) (g : Word) : State := { s with buf := buf, phase := .gen g }

theorem atPixel_self {g : Word} (hp : s.phase = .gen g) : s.atPixel s.buf g = s := by
  rw [State.atPixel, ← hp]

/-- In GEN no command but GPUT reads the buffer or the index: a colour command reads registers, and a command that
needs IDLE is rejected (40_color.md R75, 41_strip.md R100). -/
theorem exec_atPixel {i : Instr} (hi : ∀ ca, i ≠ .gput ca) {buf : List Colour} {g : Word}
    (h : exec i (s.atPixel buf g) = .next t) (buf' : List Colour) (g' : Word) :
    exec i (s.atPixel buf' g') = .next (t.atPixel buf' g') := by
  cases i with
  | rgb | pal | mix | mixr | opac | cread => cases h; rfl
  | new | each | pget | rest => cases h; rfl
  | clrerr => cases h; rfl
  | gput ca => exact absurd rfl (hi ca)

theorem execWord_atPixel {w : Word} (hw : ∀ ca, decode w ≠ .ok (.gput ca)) {buf : List Colour} {g : Word}
    (h : execWord w (s.atPixel buf g) = .next t) (buf' : List Colour) (g' : Word) :
    execWord w (s.atPixel buf' g') = .next (t.atPixel buf' g') := by
  rcases execWord_next h with ⟨i, hd, hi⟩ | ⟨e, hd, rfl⟩
  · exact (execWord_of_decode hd _).trans (exec_atPixel (fun ca hca => hw ca (hca ▸ hd)) hi buf' g')
  · exact execWord_of_decode_error hd _

theorem writeWindow_atPixel {x : Nat × Word} (hx : Prepares x) {buf : List Colour} {g : Word}
    (h : writeWindow x.1 x.2 (s.atPixel buf g) = .next t) (buf' : List Colour) (g' : Word) :
    writeWindow x.1 x.2 (s.atPixel buf' g') = .next (t.atPixel buf' g') := by
  cases hreg : windowReg x.1 with simp only [writeWindow, hreg] at h ⊢
  | cmd => exact execWord_atPixel (fun ca => hx ca (offset_windowReg hreg (by simp))) h buf' g'
  | status | opnd0 | opnd1 | opnd2 | result | length | gindex | reserved => cases h; rfl

theorem writeWindow_sameFrame {x : Nat × Word} (hx : Prepares x) {g : Word} (hp : s.phase = .gen g)
    (h : writeWindow x.1 x.2 s = .next t) : SameFrame s t := by
  rcases writeWindow_command h with ⟨i, hoff, hd, hi⟩ | ⟨-, a, b, c, e, log, prog, rfl⟩
  · exact (exec_outcome hi).sameFrame_of_gen hp fun ca hca => hx ca hoff (hca ▸ hd)
  · exact ⟨rfl, rfl, rfl, rfl, rfl⟩

/-! Lists of HOST writes -/

theorem writes_cons {x : Nat × Word} (h : writeWindow x.1 x.2 s = .next t) (l : List (Nat × Word)) :
    writes (x :: l) s = writes l t := by
  rw [writes, h]

theorem writes_append {l : List (Nat × Word)} (h : writes l s = .next t) (l' : List (Nat × Word)) :
    writes (l ++ l') s = writes l' t := by
  induction l generalizing s with
  | nil => cases h; rfl
  | cons x l ih =>
    obtain ⟨u, hu⟩ := writeWindow_answers x.1 x.2 s
    rw [writes_cons hu] at h
    rw [List.cons_append, writes_cons hu, ih h]

/-- A list of writes that prepare a pixel runs to its end, leaves the frame where it stands, and does the same to the
rest of the state at every place of every frame. -/
theorem writes_prepare {l : List (Nat × Word)} (hl : ∀ x ∈ l, Prepares x) {g : Word} (hp : s.phase = .gen g) :
    ∃ t, writes l s = .next t ∧ SameFrame s t ∧ ∀ buf g', writes l (s.atPixel buf g') = .next (t.atPixel buf g') := by
  induction l generalizing s with
  | nil => exact ⟨s, rfl, .refl s, fun _ _ => rfl⟩
  | cons x l ih =>
    obtain ⟨hx, hl⟩ := List.forall_mem_cons.1 hl
    obtain ⟨u, hu⟩ := writeWindow_answers x.1 x.2 s
    have hsu := writeWindow_sameFrame hx hp hu
    have hat : writeWindow x.1 x.2 (s.atPixel s.buf g) = .next u := by rw [atPixel_self hp, hu]
    obtain ⟨t, ht, hut, hall⟩ := ih hl (hsu.phase_eq.trans hp)
    refine ⟨t, (writes_cons hu l).trans ht, hsu.trans hut, fun buf g' => ?_⟩
    exact (writes_cons (writeWindow_atPixel hx hat buf g') l).trans (hall buf g')

/-! The answers to the generator's requests -/

/-- The HOST prepares its pixel and then names a register GPUT can spell. -/
def Answers (a : List (Nat × Word) × BitVec 4) : Prop := (∀ x ∈ a.1, Prepares x) ∧ a.2.msb = false

theorem givenColours_cons {a : List (Nat × Word) × BitVec 4} (h : writes a.1 s = .next t)
    (rest : List (List (Nat × Word) × BitVec 4)) :
    givenColours (a :: rest) s = cregOf t a.2 :: givenColours rest t := by
  rw [givenColours, h]

/-- The colours given do not depend on the place in the frame, so the GPUTs between the answers may be left out. -/
theorem givenColours_atPixel {answers : List (List (Nat × Word) × BitVec 4)} (ha : ∀ a ∈ answers, Answers a) {g : Word}
    (hp : s.phase = .gen g) (buf : List Colour) (g' : Word) :
    givenColours answers (s.atPixel buf g') = givenColours answers s := by
  induction answers generalizing s with
  | nil => rfl
  | cons a rest ih =>
    obtain ⟨⟨hprep, -⟩, hrest⟩ := List.forall_mem_cons.1 ha
    obtain ⟨u, hu, hsu, hall⟩ := writes_prepare hprep hp
    rw [givenColours_cons (hall buf g'), givenColours_cons hu, ih hrest (hsu.phase_eq.trans hp)]
    rfl

/-- STATE once `k` pixels of a frame are stored: the request for pixel `k`, or TX when there is none left. -/
def phaseAt (length : Word) (k : Nat) : Phase := if k < length.toNat then .gen (BitVec.ofNat 32 k) else .tx 0

theorem phaseAt_of_lt {length : Word} {k : Nat} (h : k < length.toNat) : phaseAt length k = .gen (BitVec.ofNat 32 k) :=
  if_pos h

theorem toNat_ofNat_of_lt {length : Word} {k : Nat} (h : k < length.toNat) : (BitVec.ofNat 32 k).toNat = k :=
  Nat.mod_eq_of_lt (h.trans length.isLt)

theorem afterPixel_eq_phaseAt {length : Word} {k : Nat} (h : k < length.toNat) :
    afterPixel length (BitVec.ofNat 32 k) = phaseAt length (k + 1) := by
  rw [afterPixel, phaseAt, toNat_ofNat_of_lt h, BitVec.ofNat_add_ofNat]

/-- One answer: the colour in the register goes to the pixel asked for, and the next one is asked for. -/
theorem writes_answerWrites {a : List (Nat × Word) × BitVec 4} (ha : Answers a) {k : Nat} (hk : k < s.length.toNat)
    (hp : s.phase = phaseAt s.length k) :
    ∃ u, writes a.1 s = .next u ∧ SameFrame s u ∧ writes (answerWrites a) s = .next
      ((u.setPixel k (cregOf u a.2)).enter (phaseAt s.length (k + 1))) := by
  obtain ⟨hprep, hreg⟩ := ha
  have hg : s.phase = .gen (BitVec.ofNat 32 k) := hp.trans (phaseAt_of_lt hk)
  obtain ⟨u, hu, hsu, -⟩ := writes_prepare hprep hg
  refine ⟨u, hu, hsu, ?_⟩
  have hwf : (Instr.gput a.2).wellFormed = true := by simp [Instr.wellFormed, regFieldOk, hreg]
  have hput : writeWindow 0x00 (encode (.gput a.2)) u = .next
      ((u.setPixel k (cregOf u a.2)).enter (phaseAt s.length (k + 1))) :=
    calc writeWindow 0x00 (encode (.gput a.2)) u
      _ = exec (.gput a.2) u := execWord_of_decode (decode_encode hwf) u
      _ = .next ((u.setPixel (BitVec.ofNat 32 k).toNat (u.creg a.2)).enter
            (afterPixel u.length (BitVec.ofNat 32 k))) := exec_gput_of_gen a.2 (hsu.phase_eq.trans hg)
      _ = .next ((u.setPixel k (cregOf u a.2)).enter (phaseAt s.length (k + 1))) := by
        rw [hsu.length_eq, toNat_ofNat_of_lt hk, afterPixel_eq_phaseAt hk]
        rfl
  rw [answerWrites, writes_append hu, writes_cons (x := (0x00, encode (.gput a.2))) hput]
  rfl

/-- Storing a pixel and asking for the next one does not change the colours that are still to be given. -/
theorem givenColours_stored {answers : List (List (Nat × Word) × BitVec 4)} (ha : ∀ a ∈ answers, Answers a) {g : Word}
    (hp : s.phase = .gen g) {length : Word} {k : Nat} (hk : k + answers.length ≤ length.toNat) (j : Nat) (c : Colour) :
    givenColours answers ((s.setPixel j c).enter (phaseAt length k)) = givenColours answers s := by
  cases answers with
  | nil => rfl
  | cons a rest =>
    have hlt : k < length.toNat := by rw [List.length_cons] at hk; omega
    rw [phaseAt_of_lt hlt]
    exact givenColours_atPixel ha hp _ _

/-- A list with its entry `k` replaced, and then the `n` entries after it. -/
theorem take_set_append_drop_set {l : List Colour} {k : Nat} (hk : k < l.length) (c : Colour) (cs : List Colour)
    (n : Nat) :
    (l.set k c).take (k + 1) ++ cs ++ (l.set k c).drop (k + 1 + n) = l.take k ++ c :: cs ++ l.drop (k + (n + 1)) := by
  have htake : (l.set k c).take (k + 1) = l.take k ++ [c] := by
    rw [List.take_add_one, List.take_set_of_le le_rfl, List.getElem?_set_self hk]
    rfl
  rw [htake, List.drop_set_of_lt (by omega), List.append_assoc (l.take k), List.singleton_append,
    Nat.add_assoc, Nat.add_comm 1 n]

/-- Answers from pixel `k` on store their colours one after the other (41_strip.md R106, R108). -/
theorem writes_answers {answers : List (List (Nat × Word) × BitVec 4)} (ha : ∀ a ∈ answers, Answers a) {k : Nat}
    (hk : k + answers.length ≤ s.length.toNat) (hp : s.phase = phaseAt s.length k)
    (hbuf : s.buf.length = s.length.toNat) :
    ∃ t, writes (answers.flatMap answerWrites) s = .next t ∧ t.phase = phaseAt s.length (k + answers.length) ∧
      t.buf = s.buf.take k ++ givenColours answers s ++ s.buf.drop (k + answers.length) ∧ t.wire = s.wire ∧
      t.length = s.length := by
  induction answers generalizing s k with
  | nil => exact ⟨s, rfl, hp, by simp [givenColours], rfl, rfl⟩
  | cons a rest ih =>
    obtain ⟨ha, hrest⟩ := List.forall_mem_cons.1 ha
    rw [List.length_cons, ← Nat.add_assoc, Nat.add_right_comm] at hk
    have hlt : k < s.length.toNat := by omega
    obtain ⟨u, hu, hsu, hput⟩ := writes_answerWrites ha hlt hp
    obtain ⟨hphase, hubuf, hulen, huwire, -⟩ := hsu
    have hgen : u.phase = .gen (BitVec.ofNat 32 k) := hphase.trans (hp.trans (phaseAt_of_lt hlt))
    obtain ⟨t, ht, htphase, htbuf, htwire, htlen⟩ := ih hrest (k := k + 1)
      (s := (u.setPixel k (cregOf u a.2)).enter (phaseAt s.length (k + 1))) (by simpa [hulen] using hk)
      (by simp [hulen]) (by simpa [hubuf, hulen] using hbuf)
    refine ⟨t, (writes_append hput _).trans ht, ?_, ?_, htwire.trans huwire, htlen.trans hulen⟩
    · rw [htphase, enter_length, setPixel_length, hulen, List.length_cons, Nat.add_assoc, Nat.add_comm 1]
    · rw [htbuf, enter_buf, setPixel_buf, hubuf, givenColours_stored hrest hgen hk, givenColours_cons hu,
        List.length_cons, take_set_append_drop_set (hbuf ▸ hlt)]

/-- Settles O58, by induction on the answers from the pixel asked for on; EACH asks for pixel 0. -/
theorem generatorCallLaw : Obligations.GeneratorCallLaw := by
  intro s answers hinv hp hl hlen ha
  have hpos : 0 < s.length.toNat := word_toNat_pos.2 hl
  have heach : writeWindow 0x00 0x21000000#32 s = .next (s.enter (.gen 0#32)) :=
    (execWord_of_decode (decode_encode (i := .each) rfl) s).trans (idleStripCommand_of_ready hp hl)
  have run := fun (front : List (List (Nat × Word) × BitVec 4)) (hfront : ∀ a ∈ front, Answers a)
      (hk : 0 + front.length ≤ s.length.toNat) =>
    writes_answers (s := s.enter (.gen 0#32)) hfront hk (phaseAt_of_lt hpos).symm hinv.buf_length
  constructor
  · intro k hk
    have htake : (answers.take k).length = k := List.length_take_of_le (by omega)
    obtain ⟨t, ht, htphase, -⟩ := run (answers.take k) (fun a h => ha a (List.mem_of_mem_take h)) (by omega)
    refine ⟨t, (writes_cons (x := (0x00, 0x21000000#32)) heach _).trans ht, ?_⟩
    rw [htphase, htake, Nat.zero_add]
    exact phaseAt_of_lt hk
  · obtain ⟨t, ht, htphase, htbuf, htwire, htlen⟩ := run answers ha (by omega)
    refine ⟨t, (writes_cons (x := (0x00, 0x21000000#32)) heach _).trans ht, ?_, ?_, htwire, htlen⟩
    · rw [htphase, Nat.zero_add, hlen]
      exact if_neg (lt_irrefl _)
    · rw [htbuf, List.drop_of_length_le (by rw [enter_buf, hinv.buf_length]; omega)]
      simp [State.enter]

end Sys2Proof.Machine

/-! The serializer and the transmission (42_protocol.md): the 8-bit conversion (R129), where the bits of a frame come
from (R127 to R132), the parameters and the pulse shapes (R133 to R139), and the engine's steps in TX (R140 to R144). -/

namespace Sys2Proof.Machine
open Sys2Proof.Spec

variable {s t : State}

/-! The 8-bit conversion -/

/-- In [0, 1] the floor lies in 0..255, so no bit of it is lost. -/
theorem q8_toNat {x : Rat} (h0 : 0 ≤ x) (h1 : x ≤ 1) : ((q8 x).toNat : Int) = Rat.floor (255 * x + 1 / 2) := by
  have hlow : 0 ≤ Rat.floor (255 * x + 1 / 2) := by rw [Rat.le_floor_iff]; push_cast; linarith
  have hhigh : Rat.floor (255 * x + 1 / 2) < 256 := by rw [Rat.floor_lt_iff]; push_cast; linarith
  rw [q8, BitVec.toNat_ofInt]
  omega

/-- The conversion reaches `n` at the threshold half-way between `n - 1` and `n` (42_protocol.md R129). -/
theorem le_q8_toNat_iff {x : Rat} (h0 : 0 ≤ x) (h1 : x ≤ 1) (n : Nat) :
    n ≤ (q8 x).toNat ↔ (2 * n - 1 : Rat) / 510 ≤ x := by
  rw [← Int.ofNat_le, q8_toNat h0 h1, Rat.le_floor_iff, div_le_iff₀ (by norm_num)]
  push_cast
  constructor <;> intro h <;> linarith

theorem q8_toNat_lt_iff {x : Rat} (h0 : 0 ≤ x) (h1 : x ≤ 1) (n : Nat) :
    (q8 x).toNat < n + 1 ↔ x < (2 * n + 1 : Rat) / 510 := by
  have hthreshold : (2 * (n + 1 : Nat) - 1 : Rat) = 2 * n + 1 := by push_cast; ring
  rw [← not_le, le_q8_toNat_iff h0 h1, hthreshold, not_le]

theorem q8_toNat_mono {x y : Rat} (h0 : 0 ≤ x) (hxy : x ≤ y) (h1 : y ≤ 1) : (q8 x).toNat ≤ (q8 y).toNat :=
  (le_q8_toNat_iff (h0.trans hxy) h1 _).2 (((le_q8_toNat_iff h0 (hxy.trans h1) _).1 le_rfl).trans hxy)

/-- Settles O22: a byte lies between its threshold and the next; the examples by evaluation. -/
theorem byteConversionThresholds : Obligations.ByteConversionThresholds := by
  refine ⟨fun x => q8_toNat, fun x k h0 h1 _ _ => ?between, fun x h0 h1 => ⟨?zero, ?top⟩, fun x y => q8_toNat_mono,
    by decide +kernel⟩
  case between =>
    rw [← le_q8_toNat_iff h0 h1, ← q8_toNat_lt_iff h0 h1]
    omega
  case zero =>
    have hzero : (q8 x).toNat < 0 + 1 ↔ x < 1 / 510 := by rw [q8_toNat_lt_iff h0 h1]; norm_num
    rw [← hzero]
    omega
  case top =>
    have htop : 255 ≤ (q8 x).toNat ↔ 509 / 510 ≤ x := by rw [le_q8_toNat_iff h0 h1]; norm_num
    have hlt := (q8 x).isLt
    rw [← htop]
    omega

/-! The bits of a frame -/

/-- In a concatenation of blocks of `n` entries, entry `n * p + i` is entry `i` of block `p`. -/
theorem getElem?_flatMap_of_length_eq {α β : Type} {f : α → List β} {n : Nat} (hf : ∀ a, (f a).length = n)
    {l : List α} {p i : Nat} {a : α} (ha : l[p]? = some a) (hi : i < n) :
    (l.flatMap f)[n * p + i]? = (f a)[i]? := by
  induction l generalizing p with
  | nil => simp at ha
  | cons b l ih =>
    rw [List.flatMap_cons]
    cases p with
    | zero =>
      obtain rfl : b = a := by simpa using ha
      rw [Nat.mul_zero, Nat.zero_add, List.getElem?_append_left (by rwa [hf])]
    | succ p =>
      have hindex : n * (p + 1) + i - n = n * p + i := by rw [Nat.mul_succ]; omega
      rw [List.getElem?_append_right (by rw [hf, Nat.mul_succ]; omega), hf, hindex]
      exact ih (by simpa using ha)

theorem byteBits_getElem? (v : Byte) {k : Nat} (hk : k < 8) : (byteBits v)[k]? = some (v.getLsbD (7 - k)) := by
  interval_cases k <;> rfl

theorem pixelBits_getElem? {order : ChannelOrder} (c : Colour) {j k : Nat} {ch : Channel}
    (hch : (channelSequence order)[j]? = some ch) (hk : k < 8) :
    (pixelBits order c)[8 * j + k]? = some ((q8 (channelValue c ch)).getLsbD (7 - k)) := by
  rw [pixelBits, getElem?_flatMap_of_length_eq (fun _ => byteBits_length _) hch hk, byteBits_getElem? _ hk]

theorem frameBits_getElem? {order : ChannelOrder} {buf : List Colour} {p i : Nat} {c : Colour}
    (hc : buf[p]? = some c) (hi : i < 24) : (frameBits order buf)[24 * p + i]? = (pixelBits order c)[i]? :=
  getElem?_flatMap_of_length_eq (pixelBits_length order) hc hi

theorem frameBits_length (order : ChannelOrder) (buf : List Colour) :
    (frameBits order buf).length = 24 * buf.length := by
  induction buf with
  | nil => rfl
  | cons c buf ih =>
    rw [frameBits_cons, List.length_append, pixelBits_length, ih, List.length_cons]
    omega

/-- Settles O54: a frame is blocks of 24 bits, one a pixel, and a block is three of 8, one a channel. -/
theorem frameBitsLayout : Obligations.FrameBitsLayout := by
  refine ⟨frameBits_length, fun order buf p j k c ch hc hch hk => ?_, rfl, rfl, rfl, rfl, rfl, rfl⟩
  obtain ⟨hj, -⟩ := List.getElem?_eq_some_iff.1 hch
  rw [channelSequence_length] at hj
  rw [Nat.add_assoc, frameBits_getElem? hc (by omega), pixelBits_getElem? c hch hk]

/-! Legal parameters, and the waveform of a frame -/

/-- Settles O40: the model's check is the list of constraints, its last one written as a sum. -/
theorem legalParametersMeetConstraints : Obligations.LegalParametersMeetConstraints := by
  intro p
  have hsum : (p.t0h : Int) + p.tTol < (p.t1h : Int) - p.tTol ↔ p.t0h + p.tTol + p.tTol < p.t1h := by omega
  rw [hsum]
  simp only [legalParams, decide_eq_true_eq, and_assoc]

/-- Under legal parameters both bits last one bit period (42_protocol.md R135). -/
theorem wireNs_bit {p : Params} (hp : legalParams p = true) (b : Bool) :
    wireNs (symbolParts p (.bit b)) = bitPeriod p := by
  obtain ⟨-, -, -, hperiod, -⟩ := (legalParametersMeetConstraints p).1 hp
  cases b with
  | false => rfl
  | true => exact hperiod.symm

theorem waveform_bits (p : Params) (bits : List Bool) :
    waveform p (bits.map Symbol.bit) = bits.flatMap fun b => symbolParts p (.bit b) := List.flatMap_map ..

theorem wireNs_append (l l' : List WirePart) : wireNs (l ++ l') = wireNs l + wireNs l' := by
  simp [wireNs]

theorem wireNs_bits {p : Params} (hp : legalParams p = true) (bits : List Bool) :
    wireNs (waveform p (bits.map Symbol.bit)) = bits.length * bitPeriod p := by
  rw [waveform_bits]
  induction bits with
  | nil => simp [wireNs]
  | cons b bits ih =>
    rw [List.flatMap_cons, wireNs_append, wireNs_bit hp, ih, List.length_cons, Nat.succ_mul, Nat.add_comm]

theorem bit_within_tolerance {p : Params} {b : Bool} {part : WirePart} (h : part ∈ symbolParts p (.bit b)) :
    ∃ ns, part.time = .within ns p.tTol := by
  cases b <;> rcases List.mem_pair.1 h with rfl | rfl <;> exact ⟨_, rfl⟩

theorem bit_ends_low {p : Params} {b : Bool} {part : WirePart}
    (h : (symbolParts p (.bit b)).getLast? = some part) : part.level = false := by
  cases b <;> cases h <;> rfl

/-- Settles O56: the shapes by definition; a frame's waveform is its bits' shapes, so what holds of each bit's parts,
of its last part and of its duration holds of the frame. -/
theorem frameDurationIsFixed : Obligations.FrameDurationIsFixed := by
  refine ⟨fun p => ⟨rfl, rfl, fun us => rfl, ⟨_, rfl⟩, rfl⟩, fun p buf hp =>
    ⟨waveform_bits p _, ?duration, fun part hmem => ?tolerance, fun part hlast => ?low⟩⟩
  case duration => rw [wireNs_bits hp, frameBits_length]
  case tolerance =>
    rw [waveform_bits] at hmem
    obtain ⟨b, -, hb⟩ := List.mem_flatMap.1 hmem
    exact bit_within_tolerance hb
  case low =>
    rw [waveform_bits, List.getLast?_flatMap] at hlast
    obtain ⟨b, -, hb⟩ := List.exists_of_findSome?_eq_some hlast
    exact bit_ends_low hb

/-! Commands in TX -/

/-- In TX every command but CLRERR is rejected STATE (42_protocol.md R140). -/
theorem CommandOutcome.of_tx {i : Instr} {p : Nat} (h : CommandOutcome s i t) (hp : s.phase = .tx p) :
    (i ≠ .clrerr ∧ t = s.reject .state) ∨ (i = .clrerr ∧ t = s.clearError) := by
  have herr : i ≠ .clrerr → firstError i s = .state := fun hi => by
    have hcheck : passesStateCheck i s.phase = false := by
      rw [hp]
      cases i with
      | clrerr => exact absurd rfl hi
      | rgb | pal | mix | mixr | opac | cread | new | each | gput | pget | rest => rfl
    simp [firstError, hcheck]
  cases h with
  | rejected hne =>
    have hi : i ≠ .clrerr := fun hi => hne (hi ▸ rfl)
    exact .inl ⟨hi, by rw [herr hi]⟩
  | register hacc hw =>
    have hi : i ≠ .clrerr := fun hi => by subst hi; cases hw
    simp [herr hi] at hacc
  | cread hacc => simp [hp, Phase.acceptsColour] at hacc
  | new hidle | each hidle | rest hidle => simp [hp] at hidle
  | gput hgen => simp [hp] at hgen
  | clrerr => exact .inr ⟨rfl, rfl⟩

/-- In TX the HOST's turn moves only the bus's part: operands, ERR, its log and its program. -/
theorem hostStep_busOnly_of_tx {p : Nat} (hp : s.phase = .tx p) (h : hostStep s = .next t) : BusOnly s t := by
  rcases hostStep_command h with ⟨i, -, hi⟩ | ⟨-, hb⟩
  · rcases (exec_outcome hi).of_tx hp with ⟨-, rfl⟩ | ⟨-, rfl⟩ <;> exact ⟨_, _, _, _, _, _, rfl⟩
  · exact hb

theorem exec_of_tx {i : Instr} {p : Nat} (hp : s.phase = .tx p) (hi : i ≠ .clrerr) :
    exec i s = .next (s.reject .state) := by
  obtain ⟨t, ht⟩ := exec_answers i s
  rcases (exec_outcome ht).of_tx hp with ⟨-, rfl⟩ | ⟨hclr, -⟩
  · exact ht
  · exact absurd hclr hi

/-- Settles O51: the HOST's turn moves only the bus's part, and its commands are rejected or clear ERR. -/
theorem transmissionIsNotPreempted : Obligations.TransmissionIsNotPreempted := by
  refine fun s t p hp => ⟨fun h => ?_, fun i hi => exec_of_tx hp hi, rfl⟩
  obtain ⟨a, b, c, e, log, prog, rfl⟩ := hostStep_busOnly_of_tx hp h
  exact ⟨hp, rfl, rfl, rfl, rfl, rfl, rfl, rfl⟩

/-! One step of a transmission -/

/-- STATE with the transmit cursor at `p`: IDLE once all bits are sent (42_protocol.md R141). -/
def phaseAtCursor (length : Word) (p : Nat) : Phase := if p = 24 * length.toNat then .idle else .tx p

theorem phaseAtCursor_of_lt {length : Word} {p : Nat} (h : p < 24 * length.toNat) : phaseAtCursor length p = .tx p :=
  if_neg h.ne

/-- `s` once the bit `b` at the cursor `p` of its frame is sent (42_protocol.md R141). -/
def State.sendBit (s : State) (p : Nat) (b : Bool) : State :=
  { s with
    wire := s.wire ++ [.bit b]
    pin := s.pin.low
    undelimited := s.markFrame p
    wireDirty := true
    phase := phaseAtCursor s.length (p + 1) }

theorem engineStep_of_tx {p : Nat} (hp : s.phase = .tx p) : engineStep s = transmitStep p s := by
  rw [engineStep, hp]

theorem engineStep_sendBit {p : Nat} {b : Bool} (hp : s.phase = .tx p)
    (hb : (frameBits s.params.channelOrder s.buf)[p]? = some b) : engineStep s = .next (s.sendBit p b) := by
  rw [engineStep_of_tx hp, transmitStep, hb]
  rfl

theorem sendBit_of_engineStep {p : Nat} (hp : s.phase = .tx p) (h : engineStep s = .next t) :
    ∃ b, t = s.sendBit p b := by
  rw [engineStep_of_tx hp] at h
  obtain ⟨b, -, rfl⟩ := transmitStep_next h
  exact ⟨b, rfl⟩

namespace Inv

theorem frameBits_length (h : Inv s) : (frameBits s.params.channelOrder s.buf).length = 24 * s.length.toNat := by
  rw [Machine.frameBits_length, h.buf_length]

theorem cursor_lt {p : Nat} (h : Inv s) (hp : s.phase = .tx p) : p < 24 * s.length.toNat := by
  simpa [hp, Phase.fits] using h.phase_fits

/-- A frame has a bit at every cursor below 24 * LENGTH. -/
theorem exists_bit (h : Inv s) {p : Nat} (hp : p < 24 * s.length.toNat) :
    ∃ b, (frameBits s.params.channelOrder s.buf)[p]? = some b :=
  ⟨_, List.getElem?_eq_getElem (by rwa [h.frameBits_length])⟩

/-- In TX a strip exists, so the pin is driven. -/
theorem pin_of_tx {p : Nat} (h : Inv s) (hp : s.phase = .tx p) : s.pin = .driven false := by
  have hl : s.length ≠ 0#32 := word_toNat_pos.1 (Nat.pos_of_mul_pos_left (Nat.zero_lt_of_lt (h.cursor_lt hp)))
  rw [h.pin_eq, if_neg hl]

end Inv

/-- Settles O52: the cursor is below the frame's end, so there is a bit to send, and the pin is low already. -/
theorem transmitStepSendsNextBit : Obligations.TransmitStepSendsNextBit := by
  intro s p hinv hp
  obtain ⟨b, hb⟩ := hinv.exists_bit (hinv.cursor_lt hp)
  have hpin : (s.sendBit p b).pin = s.pin := hinv.pin_low
  refine ⟨b, hb, s.sendBit p b, engineStep_sendBit hp hb, rfl, rfl, hpin.trans (hinv.pin_of_tx hp), rfl, ?_⟩
  rw [← hpin]
  rfl

/-! The mark of an undelimited frame -/

theorem markFrame_of_first_bit (h : s.wireDirty = true) : s.markFrame 0 = s.undelimited ++ [s.wire.length] :=
  if_pos ⟨rfl, h⟩

theorem markFrame_eq_self {p : Nat} (h : p ≠ 0 ∨ s.wireDirty = false) : s.markFrame p = s.undelimited :=
  if_neg fun ⟨hp, hd⟩ => h.elim (· hp) fun hd' => by simp [hd] at hd'

/-- Settles O53: the marks after the step are those of `markFrame`. -/
theorem undelimitedFramesAreMarked : Obligations.UndelimitedFramesAreMarked := by
  intro s t p hp h
  obtain ⟨b, rfl⟩ := sendBit_of_engineStep hp h
  exact ⟨fun hfirst hd => ⟨hfirst ▸ markFrame_of_first_bit hd, rfl⟩, markFrame_eq_self⟩

/-! A whole transmission -/

/-- `s` once the `k` bits from the cursor `p` on are sent, and nothing else has happened. -/
def State.afterBits (s : State) (p k : Nat) : State :=
  { s with
    phase := phaseAtCursor s.length (p + k)
    wire := s.wire ++ (((frameBits s.params.channelOrder s.buf).drop p).take k).map Symbol.bit
    wireDirty := if k = 0 then s.wireDirty else true
    undelimited := if k = 0 then s.undelimited else s.markFrame p }

theorem afterBits_zero {p : Nat} (hinv : Inv s) (hp : s.phase = .tx p) : s.afterBits p 0 = s := by
  have hphase : phaseAtCursor s.length (p + 0) = s.phase := (phaseAtCursor_of_lt (hinv.cursor_lt hp)).trans hp.symm
  rw [State.afterBits, hphase]
  simp

/-- Only the first bit of a frame can be marked, so the bits after it add no mark. -/
theorem markFrame_afterBits (s : State) (p k : Nat) : (s.afterBits p k).markFrame (p + k) = s.markFrame p := by
  cases k with
  | zero => simp [State.afterBits, State.markFrame]
  | succ k => exact markFrame_eq_self (.inl (Nat.succ_ne_zero _))

/-- The bit at the cursor comes next after the bits sent before it. -/
theorem sendBit_afterBits {p k : Nat} {b : Bool} (hinv : Inv s)
    (hb : (frameBits s.params.channelOrder s.buf)[p + k]? = some b) :
    (s.afterBits p k).sendBit (p + k) b = s.afterBits p (k + 1) := by
  have hbits : ((frameBits s.params.channelOrder s.buf).drop p).take (k + 1) =
      ((frameBits s.params.channelOrder s.buf).drop p).take k ++ [b] := by
    rw [List.take_add_one, List.getElem?_drop, hb, Option.toList_some]
  have hpin : (s.afterBits p k).pin.low = s.pin := hinv.pin_low
  rw [State.sendBit, markFrame_afterBits, hpin]
  simp [State.afterBits, hbits, Nat.add_assoc]

theorem step_of_tx {p : Nat} (hlegal : legalParams s.params = true) (hs : s.schedule = []) (hp : s.phase = .tx p) :
    step s = engineStep s := by
  rw [step_of_no_turn hlegal hs, State.fairTurn, hp]
  rfl

theorem step_afterBits {p k : Nat} (hinv : Inv s) (hlegal : legalParams s.params = true) (hs : s.schedule = [])
    (hk : p + k < 24 * s.length.toNat) : step (s.afterBits p k) = .next (s.afterBits p (k + 1)) := by
  obtain ⟨b, hb⟩ := hinv.exists_bit hk
  have hp : (s.afterBits p k).phase = .tx (p + k) := phaseAtCursor_of_lt hk
  rw [step_of_tx (s := s.afterBits p k) hlegal hs hp, engineStep_sendBit hp hb, sendBit_afterBits hinv hb]

theorem run_succ_of_step (h : step s = .next t) (k : Nat) : core.run (k + 1) s = core.run k t := by
  simp only [Host.Core.run, core, h]

/-- Steps of the engine compose: `j` more bits after the first `k`. -/
theorem run_afterBits {p : Nat} (hinv : Inv s) (hlegal : legalParams s.params = true) (hs : s.schedule = []) {j k : Nat}
    (hjk : p + k + j ≤ 24 * s.length.toNat) : core.run j (s.afterBits p k) = .next (s.afterBits p (k + j)) := by
  induction j generalizing k with
  | zero => rfl
  | succ j ih =>
    rw [run_succ_of_step (step_afterBits hinv hlegal hs (by omega)), ih (by omega), Nat.add_right_comm, Nat.add_assoc]

/-- With no order of turns given, `k` steps from the cursor `p` send the `k` bits from there on. -/
theorem run_of_tx {p k : Nat} (hinv : Inv s) (hlegal : legalParams s.params = true) (hs : s.schedule = [])
    (hp : s.phase = .tx p) (hk : p + k ≤ 24 * s.length.toNat) : core.run k s = .next (s.afterBits p k) := by
  have hrun := run_afterBits hinv hlegal hs (k := 0) hk
  rwa [afterBits_zero hinv hp, Nat.zero_add] at hrun

theorem afterBits_whole_frame (hinv : Inv s) (hp : s.phase = .tx 0) :
    s.afterBits 0 (24 * s.length.toNat) =
      { s with
        phase := .idle
        wire := s.wire ++ (frameBits s.params.channelOrder s.buf).map Symbol.bit
        wireDirty := true
        undelimited := if s.wireDirty then s.undelimited ++ [s.wire.length] else s.undelimited } := by
  have hpos : 24 * s.length.toNat ≠ 0 := (hinv.cursor_lt hp).ne'
  have hall : ((frameBits s.params.channelOrder s.buf).drop 0).take (24 * s.length.toNat) =
      frameBits s.params.channelOrder s.buf := List.take_of_length_le hinv.frameBits_length.le
  have hend : phaseAtCursor s.length (0 + 24 * s.length.toNat) = .idle := if_pos (Nat.zero_add _)
  rw [State.afterBits, hall, hend, if_neg hpos, if_neg hpos]
  simp [State.markFrame]

/-- Settles O55, by induction on the bits sent; after the last one the cursor's STATE is IDLE. -/
theorem wholeFrameReachesTheWire : Obligations.WholeFrameReachesTheWire := by
  intro s hinv hlegal hp hs
  have run : ∀ k, k ≤ 24 * s.length.toNat → core.run k s = .next (s.afterBits 0 k) := fun k hk =>
    run_of_tx hinv hlegal hs hp (by omega)
  refine ⟨fun k hk => ⟨s.afterBits 0 k, run k hk.le, ?_, rfl⟩, ?_⟩
  · rw [State.afterBits, Nat.zero_add]
    exact phaseAtCursor_of_lt hk
  · rw [run _ le_rfl, afterBits_whole_frame hinv hp]

end Sys2Proof.Machine

/-! Rejections, refusals and faults (60_exceptions.md R151 to R159): a command fails its first check and changes only
ERR or passes them all, the model refuses an access that is not in the window, and no reachable state faults. -/

namespace Sys2Proof.Machine
open Sys2Proof.Spec

variable {s t : State}

/-! Rejected and accepted commands -/

/-- A command that needs IDLE is accepted when its strip and operand checks pass there (41_strip.md R100). -/
theorem firstError_eq_none_of_idle {i : Instr} (hi : needsIdle i = true) (hp : s.phase = .idle)
    (hcheck : stripAndOperandCheck i s = .none) : firstError i s = .none := by
  rw [firstError_of_needsIdle hi, if_pos hp, hcheck]

theorem stripAndOperandCheck_new (hl : s.length = 0#32) (h0 : s.opnd0 ≠ 0#32)
    (hmax : s.opnd0.toNat ≤ s.params.maxLeds) : stripAndOperandCheck .new s = .none := by
  rw [stripAndOperandCheck, if_neg (not_not.2 hl), if_neg (not_or.2 ⟨h0, not_lt.2 hmax⟩)]

/-- A command that fails a check is rejected with the first failing check's code; one that passes them all leaves ERR,
and only CLRERR clears it. -/
theorem CommandOutcome.rejected_or_accepted {i : Instr} (h : CommandOutcome s i t) :
    (firstError i s ≠ .none ∧ t = s.reject (firstError i s)) ∨
      (firstError i s = .none ∧ t.err = if i = .clrerr then .none else s.err) := by
  cases h with
  | rejected herr => exact .inl ⟨herr, rfl⟩
  | register hacc hw =>
    have hi : i ≠ .clrerr := fun hi => by subst hi; cases hw
    exact .inr ⟨hacc, (if_neg hi).symm⟩
  | cread hacc => exact .inr ⟨by rw [firstError_of_isColour rfl, if_pos hacc], by simp⟩
  | new hp hl h0 hmax =>
    exact .inr ⟨firstError_eq_none_of_idle rfl hp (stripAndOperandCheck_new hl h0 hmax), by simp⟩
  | each hp hl | rest hp hl => exact .inr ⟨firstError_eq_none_of_idle rfl hp (if_neg hl), by simp⟩
  | gput hp => exact .inr ⟨by rw [firstError_gput, hp]; rfl, by simp⟩
  | clrerr => exact .inr ⟨rfl, by simp⟩

/-- Settles O34: the word is rejected by the decoder, or its command has one of its outcomes. -/
theorem checksRunInOrder : Obligations.ChecksRunInOrder := by
  refine ⟨fun w e s hd => execWord_of_decode_error hd s, fun w i s hd herr => ?rejected,
    fun w i s hd hacc => ?accepted⟩
  all_goals
    rw [execWord_of_decode hd]
    obtain ⟨t, ht⟩ := exec_answers i s
  case rejected =>
    obtain ⟨-, rfl⟩ | ⟨hacc, -⟩ := (exec_outcome ht).rejected_or_accepted
    · exact ht
    · exact absurd hacc herr
  case accepted =>
    obtain ⟨herr, -⟩ | ⟨-, hcode⟩ := (exec_outcome ht).rejected_or_accepted
    · exact absurd hacc herr
    · exact ⟨t, ht, hcode⟩

/-- Settles O33: a word that does not decode or fails a check takes its code, CLRERR clears ERR, and every other
command keeps it. -/
theorem rejectionIsPrecise : Obligations.RejectionIsPrecise := by
  intro w s
  obtain ⟨t, ht⟩ := execWord_answers w s
  refine ⟨t, ht, ?_⟩
  obtain ⟨i, hd, hi⟩ | ⟨e, -, rfl⟩ := execWord_next ht
  · obtain ⟨herr, rfl⟩ | ⟨hacc, hcode⟩ := (exec_outcome hi).rejected_or_accepted
    · exact .inl ⟨firstError i s, herr, rfl⟩
    · by_cases hclr : i = .clrerr
      · subst hclr
        cases hi
        exact .inr (.inl ⟨hd, rfl⟩)
      · exact .inr (.inr ⟨i, hd, hclr, hacc, by rw [hcode, if_neg hclr]⟩)
  · exact .inl ⟨.illegal, by simp, rfl⟩

/-! Refused accesses -/

/-- The address a HOST statement accesses. -/
def HostStmt.address : HostStmt → Nat
  | .write addr _ _ => addr
  | .read addr _ => addr
  | .poll addr _ _ => addr

/-- How many bytes wide a HOST statement's access is: the read of a poll is a word (30_encoding.md R70). -/
def HostStmt.width : HostStmt → Nat
  | .write _ width _ => width
  | .read _ width => width
  | .poll _ _ _ => 4

/-- The statement's access is one word of the window, aligned (20_memory.md R42, R44). -/
def HostStmt.InWindow (stmt : HostStmt) (p : Params) : Prop :=
  stmt.width = 4 ∧ p.engineBase ≤ stmt.address ∧ stmt.address ≤ p.engineBase + 0x3F ∧
    (stmt.address - p.engineBase) % 4 = 0

theorem locate_of_inWindow {stmt : HostStmt} {p : Params} (h : stmt.InWindow p) :
    locate p stmt.address stmt.width = .ok (stmt.address - p.engineBase) := by
  obtain ⟨hwidth, hlo, hhi, hal⟩ := h
  have hloc := locate_window p (off := stmt.address - p.engineBase) (by omega) hal
  rwa [Nat.add_sub_of_le hlo, ← hwidth] at hloc

theorem locate_of_not_inWindow {stmt : HostStmt} {p : Params} (h : ¬ stmt.InWindow p) :
    ∃ r, locate p stmt.address stmt.width = .error r := by
  cases hloc : locate p stmt.address stmt.width with
  | error r => exact ⟨r, rfl⟩
  | ok off =>
    obtain ⟨hwidth, haddr, hlt, hal⟩ := locate_ok hloc
    exact absurd ⟨hwidth, by omega, by omega, by omega⟩ h

theorem hostStatement_of_located {stmt : HostStmt} {off : Nat}
    (h : locate s.params stmt.address stmt.width = .ok off) : ∃ t, hostStatement stmt s = .next t := by
  cases stmt with (simp only [HostStmt.address, HostStmt.width] at h; simp only [hostStatement, h])
  | write addr width v => exact writeWindow_answers off v s
  | read => exact ⟨_, rfl⟩
  | poll => split <;> exact ⟨_, rfl⟩

theorem hostStatement_of_not_located {stmt : HostStmt} {r : Refusal}
    (h : locate s.params stmt.address stmt.width = .error r) : hostStatement stmt s = .refused r := by
  cases stmt <;> simp only [HostStmt.address, HostStmt.width] at h <;> simp only [hostStatement, h]

theorem hostStep_of_program {stmt : HostStmt} {rest : List HostStmt} (hp : s.program = stmt :: rest) :
    hostStep s = hostStatement stmt { s with program := rest } := by
  rw [hostStep, hp]

theorem hostStep_of_inWindow {stmt : HostStmt} {rest : List HostStmt} (hp : s.program = stmt :: rest)
    (h : stmt.InWindow s.params) : ∃ t, hostStep s = .next t := by
  rw [hostStep_of_program hp]
  exact hostStatement_of_located (locate_of_inWindow h)

theorem hostStep_of_not_inWindow {stmt : HostStmt} {rest : List HostStmt} (hp : s.program = stmt :: rest)
    (h : ¬ stmt.InWindow s.params) : ∃ r, hostStep s = .refused r := by
  obtain ⟨r, hr⟩ := locate_of_not_inWindow h
  exact ⟨r, (hostStep_of_program hp).trans (hostStatement_of_not_located hr)⟩

theorem step_of_bad_parameters (h : legalParams s.params = false) : step s = .refused .badParameters :=
  if_neg (Bool.eq_false_iff.1 h)

/-- Settles O39: `InWindow` is what each clause asks for of an access, and the HOST's turn goes on exactly with it. -/
theorem badAccessesAreRefused : Obligations.BadAccessesAreRefused := by
  refine ⟨fun s => step_of_bad_parameters,
    fun s addr mask v rest hp =>
      ⟨fun hbad => hostStep_of_not_inWindow hp ?_, fun hok => hostStep_of_inWindow hp ⟨rfl, hok⟩⟩,
    fun s addr width rest v =>
      ⟨fun hbad => ⟨fun hp => hostStep_of_not_inWindow hp ?_, fun hp => hostStep_of_not_inWindow hp ?_⟩,
        fun hok => ⟨fun hp => hostStep_of_inWindow hp hok, fun hp => hostStep_of_inWindow hp hok⟩⟩⟩
  all_goals
    rintro ⟨hwidth, hlo, hhi, hal⟩
    simp only [HostStmt.address, HostStmt.width] at hwidth hlo hhi hal
    omega

/-! No fault -/

/-- The HOST's turn goes on or is refused. -/
theorem hostStep_ne_fault (s : State) (r : Fault) : hostStep s ≠ .fault r := by
  cases hp : s.program with
  | nil => simp [hostStep, hp]
  | cons stmt rest =>
    by_cases h : stmt.InWindow s.params
    · obtain ⟨t, ht⟩ := hostStep_of_inWindow hp h
      simp [ht]
    · obtain ⟨r', hr⟩ := hostStep_of_not_inWindow hp h
      simp [hr]

/-- Under the invariant the engine's turn goes on: in TX there is a bit at the cursor (10_state.md R29). -/
theorem Inv.engineStep_answers (h : Inv s) : ∃ t, engineStep s = .next t := by
  cases hp : s.phase with
  | idle => exact ⟨s, engineStep_idleOrGen (.inl hp)⟩
  | gen g => exact ⟨s, engineStep_idleOrGen (.inr ⟨g, hp⟩)⟩
  | tx p =>
    obtain ⟨b, hb⟩ := h.exists_bit (h.cursor_lt hp)
    exact ⟨_, engineStep_sendBit hp hb⟩
  | restDelay => exact ⟨_, engineStep_of_restDelay hp⟩
  | restLatch => exact ⟨_, engineStep_of_restLatch hp⟩

theorem Inv.takeTurn_ne_fault (h : Inv s) (turn : Turn) (r : Fault) : takeTurn turn s ≠ .fault r := by
  cases turn with
  | host => exact hostStep_ne_fault s r
  | engine =>
    obtain ⟨t, ht⟩ := h.engineStep_answers
    simp [takeTurn, ht]
  | reset => simp [takeTurn]

/-- Under legal parameters a step is the turn `turnOf` names, whatever that turn answers. -/
theorem step_of_legal (hl : legalParams s.params = true) :
    step s = takeTurn (turnOf s) { s with schedule := s.schedule.tail } := by
  cases hs : s.schedule with
  | nil =>
    have hself : { s with schedule := [] } = s := by rw [← hs]
    rw [step_of_no_turn hl hs, turnOf, hs, List.tail_nil, hself]
    rfl
  | cons turn rest =>
    rw [step_of_turn hl hs, turnOf, hs]
    rfl

/-- Settles O46: a step is refused for its parameters or takes a turn, and no turn faults under the invariant. -/
theorem invariantExcludesFault : Obligations.InvariantExcludesFault := by
  intro s r hinv
  cases hl : legalParams s.params with
  | false => simp [step_of_bad_parameters hl]
  | true =>
    have hrest : Inv { s with schedule := s.schedule.tail } := { hinv with }
    rw [step_of_legal hl]
    exact hrest.takeTurn_ne_fault (turnOf s) r

end Sys2Proof.Machine

/-! The ends of the busy phases and the reset input (70_reset_and_hazards.md R170 to R181). -/

namespace Sys2Proof.Machine

variable {s : State}

/-! The busy phases -/

/-- With no order of turns given, a busy engine moves (log 3). -/
theorem step_of_busy (hlegal : legalParams s.params = true) (hs : s.schedule = []) (hb : s.phase.busy = true) :
    step s = engineStep s := by
  rw [step_of_no_turn hlegal hs, State.fairTurn, if_pos hb]
  rfl

/-- Once every bit from the cursor on is sent, STATE is IDLE. -/
theorem phase_afterBits_of_all_sent {p k : Nat} (h : p + k = 24 * s.length.toNat) : (s.afterBits p k).phase = .idle :=
  if_pos h

theorem run_of_restLatch {us : Word} (hlegal : legalParams s.params = true) (hs : s.schedule = [])
    (hp : s.phase = .restLatch us) : core.run 1 s = .next (latchStep us s) :=
  run_succ_of_step ((step_of_busy hlegal hs (by rw [hp]; rfl)).trans (engineStep_of_restLatch hp)) 0

/-- The end of the delay changes STATE alone, and the latch phase overwrites it. -/
theorem latchStep_delayStep (us : Word) (s : State) : latchStep us (delayStep us s) = latchStep us s := rfl

theorem run_of_restDelay {us : Word} (hlegal : legalParams s.params = true) (hs : s.schedule = [])
    (hp : s.phase = .restDelay us) : core.run 2 s = .next (latchStep us s) := by
  have hdelay : step s = .next (delayStep us s) :=
    (step_of_busy hlegal hs (by rw [hp]; rfl)).trans (engineStep_of_restDelay hp)
  rw [run_succ_of_step hdelay 1, run_of_restLatch (s := delayStep us s) hlegal hs rfl, latchStep_delayStep]

/-- Settles O59: a transmission from the cursor `p` sends the bits from there on, and a rest takes its one or two
engine steps. -/
theorem busyPhasesEnd : Obligations.BusyPhasesEnd := by
  intro s hinv hlegal hs
  refine ⟨fun p hp => ?_, fun us => run_of_restDelay hlegal hs, fun us => run_of_restLatch hlegal hs⟩
  have hall : p + (24 * s.length.toNat - p) = 24 * s.length.toNat := Nat.add_sub_of_le (hinv.cursor_lt hp).le
  exact ⟨_, run_of_tx hinv hlegal hs hp hall.le, phase_afterBits_of_all_sent hall, rfl, rfl⟩

/-! The wire over a reset -/

theorem resetInput_wire_of_released (h : s.pin = .released) : s.resetInput.wire = s.wire := if_pos h

theorem resetInput_wire_of_driven {level : Bool} (h : s.pin = .driven level) :
    s.resetInput.wire = s.wire ++ [.release] := by
  rw [resetInput_wire, h]
  rfl

/-! The mark of a frame that a reset cuts (log 9) -/

theorem resetInput_undelimited_of_not_tx (h : ∀ p, s.phase ≠ .tx p) : s.resetInput.undelimited = s.undelimited := by
  have hcut : s.cutFrameMark = [] := by
    cases hp : s.phase with
    | tx p => exact absurd hp (h p)
    | idle | gen | restDelay | restLatch => rw [State.cutFrameMark, hp]
  rw [resetInput_undelimited, hcut, List.append_nil]

theorem cutFrameMark_of_tx {p : Nat} (hp : s.phase = .tx p) :
    s.cutFrameMark = if s.wire.length - p ∈ s.undelimited then [] else [s.wire.length - p] := by
  simp [State.cutFrameMark, hp]

theorem resetInput_undelimited_of_marked {p : Nat} (hp : s.phase = .tx p) (h : s.wire.length - p ∈ s.undelimited) :
    s.resetInput.undelimited = s.undelimited := by
  rw [resetInput_undelimited, cutFrameMark_of_tx hp, if_pos h, List.append_nil]

theorem resetInput_undelimited_of_unmarked {p : Nat} (hp : s.phase = .tx p) (h : s.wire.length - p ∉ s.undelimited) :
    s.resetInput.undelimited = s.undelimited ++ [s.wire.length - p] := by
  rw [resetInput_undelimited, cutFrameMark_of_tx hp, if_neg h]

/-! The reset input -/

theorem resetInput_status (s : State) : s.resetInput.status = 0#32 := by
  rw [← status_powerOn s.params]
  rfl

/-- After a reset the pin is released and no frame is open, so a second reset adds no RELEASE and no mark. -/
theorem resetInput_resetInput (s : State) : s.resetInput.resetInput = s.resetInput := by
  have hwire : s.resetInput.resetInput.wire = s.resetInput.wire := resetInput_wire_of_released rfl
  have hmarks : s.resetInput.resetInput.undelimited = s.resetInput.undelimited :=
    resetInput_undelimited_of_not_tx fun _ h => nomatch h
  rw [State.mk.injEq]
  exact ⟨rfl, rfl, rfl, rfl, rfl, rfl, rfl, rfl, rfl, rfl, rfl, rfl, hwire, hmarks, rfl, rfl, rfl⟩

/-- Settles O60: the step is the reset input; the wire and the marks by the pin and the STATE it finds. -/
theorem resetInputRestores : Obligations.ResetInputRestores := by
  intro s turns hlegal hs
  have hstep : step s = .next { s with schedule := turns }.resetInput := step_of_turn hlegal hs
  exact ⟨_, hstep, rfl, rfl, rfl, rfl, rfl, rfl, rfl, rfl, rfl, rfl, resetInput_status _, rfl, rfl,
    resetInput_wire_of_released, fun _ => resetInput_wire_of_driven,
    resetInput_undelimited_of_not_tx, fun _ => resetInput_undelimited_of_marked,
    fun _ => resetInput_undelimited_of_unmarked, ⟨rfl, rfl, rfl, rfl⟩, resetInput_resetInput _⟩

end Sys2Proof.Machine
